-- ==== Sys2Proof/Word.lean ====
section
/-! DEFINITION. The words of CHIP-8 core (salihy/chip8-rs): the widths the spec gives its values (spec/00_scope.md R8,
spec/30_encoding.md R61). -/

namespace Sys2Proof

/-- A byte of memory or the content of a general register: 8 bits, unsigned (R10, R23). -/
abbrev Byte := BitVec 8

/-- A 16-bit value: an instruction word, `PC`, `I`, a return address (R12, R16, R20, R60). -/
abbrev Word := BitVec 16

/-- The 12-bit address field `nnn` of an instruction word (R61). -/
abbrev Addr := BitVec 12

/-- The 4-bit index of a general register: the fields `x` and `y` (R10, R61). -/
abbrev Reg := BitVec 4

/-- The 4-bit count field `n` (R61). -/
abbrev Nibble := BitVec 4

end Sys2Proof
end

