-- ==== Sys2Proof/Config.lean ====
section
/-! DEFINITION. What is fixed for one machine (sizes, R6; the default font, G1) and the free inputs of the environment
(spec/00_scope.md R7): opaque streams, about whose values nothing can be proved. -/

namespace Sys2Proof

/-- `MEM_SIZE`: 4096 bytes, addresses 0x000 to 0xFFF (R6). -/
def Config.memSize : Nat := 4096

/-- `PROG_BASE`: where `Boot` copies the program image and where `PC` starts (R6). -/
def Config.progBase : Nat := 0x200

/-- `PROG_MAX`: the longest image that fits, 4096 - 0x200 bytes (R6). -/
def Config.progMax : Nat := 3584

/-- The parameter `FONT`: 80 bytes, 16 glyphs of 5 rows (R6, R7). -/
abbrev Config.Font := Vector Byte 80

/-- PRESUMED (spec/93_implementation_defined.md G1, which marks the table general knowledge; log 8). The default value of the
parameter `FONT`; no meaning of an instruction reads it, and no statement rests on its bytes. -/
def Config.defaultFont : Config.Font := #v[
  0xF0, 0x90, 0x90, 0x90, 0xF0,  0x20, 0x60, 0x20, 0x20, 0x70,
  0xF0, 0x10, 0xF0, 0x80, 0xF0,  0xF0, 0x10, 0xF0, 0x10, 0xF0,
  0x90, 0x90, 0xF0, 0x10, 0x10,  0xF0, 0x80, 0xF0, 0x10, 0xF0,
  0xF0, 0x80, 0xF0, 0x90, 0xF0,  0xF0, 0x10, 0x20, 0x40, 0x40,
  0xF0, 0x90, 0xF0, 0x90, 0xF0,  0xF0, 0x90, 0xF0, 0x10, 0xF0,
  0xF0, 0x90, 0xF0, 0x90, 0x90,  0xE0, 0x90, 0xE0, 0x90, 0xE0,
  0xF0, 0x80, 0x80, 0x80, 0xF0,  0xE0, 0x90, 0x90, 0x90, 0xE0,
  0xF0, 0x80, 0xF0, 0x80, 0xF0,  0xF0, 0x80, 0xF0, 0x80, 0x80]

/-- The key state `keys`: 16 booleans, `true` when the key is down (R7, R180). -/
abbrev Config.Keys := Vector Bool 16

/-- Free value (R7, U3; log 2): the key state the environment supplies with the step that follows draw `n`. -/
opaque Config.keysAt : Nat → Config.Keys

/-- Free value (R7, R132, U2; log 2): the random byte the environment supplies with the step that follows draw `n`. -/
opaque Config.rndAt : Nat → Byte

/-- Free value (R7, R187, U4; log 3): how many `Tick()` the environment issues before the step that follows draw `n`. -/
opaque Config.ticksAt : Nat → Nat

end Sys2Proof
end

