-- ==== Sys2Proof/Machine/State.lean ====
section
/-! DEFINITION. The state of the block (spec/10_state.md R10 to R26): plain data, every register at the width the spec
gives it, and `State.reset`, the state after `Boot(image)` and `Reset()` (R26, spec/70_reset_and_hazards.md R233). The last five
fields are the MODEL's own: the output of the last step and the inputs of the next one (log 2, 3, 4). -/

namespace Sys2Proof.Machine

/-- The fatal error kinds (R205). -/
inductive FatalKind where
  /-- The fetch of a step in `READY` with `PC + 1 > 0xFFF` (R203). -/
  | outOfBoundsFetch
  /-- `Dxyn` with `I + n > 4096` (R166). -/
  | outOfBoundsSpriteRead
  /-- `Fx33` with `I + 2 > 0xFFF`, `Fx55` and `Fx65` with `I + x > 0xFFF` (R143 to R145). -/
  | outOfBoundsDataAccess
deriving DecidableEq, Repr

/-- The non-fatal reports (R205, R208). -/
inductive ReportKind where
  /-- `2nnn` at `SP = 16` (R104). -/
  | stackOverflow
  /-- `00EE` at `SP = 0` (R102). -/
  | stackUnderflow
deriving DecidableEq, Repr

/-- The run state `RUN` (R21). -/
inductive RunState where
  /-- The next step fetches at `PC`. -/
  | ready
  /-- An `Fx0A` found no key down; the next step fetches nothing (R183). -/
  | awaitingKey (x : Reg)
  /-- Execution was aborted; left only by `Boot` and `Reset` (R206). -/
  | faulted (k : FatalKind)
deriving DecidableEq, Repr

/-- What a step hands to the environment (R201). -/
inductive StepOutcome where
  | done
  | reported (k : ReportKind)
  | awaitingInput
  | fatal (k : FatalKind)
deriving DecidableEq, Repr

/-- The model's faults. The fatal errors of the hardware are NOT among them: the spec says what state each leaves, so they are
next states with `RUN = FAULTED(K)` (R206, R207; log 5). -/
inductive Fault where
  /-- Raised by `execCall` and `execRet` (`2nnn`, `00EE`) when `SP > 16`: the spec calls only 0 to 16 legal (R17) and there is no
  slot at such an index. Safe: no state the machine reaches from boot or reset has it (`State.Inv`; log 7). -/
  | stackPointerOutOfRange
deriving DecidableEq, Repr

/-- The model's refusals. -/
inductive Refusal where
  /-- Raised by a refused arm of `exec`, for an instruction without a meaning: none is left. Safe. -/
  | notModelled (mnemonic : String)
  /-- Raised by `runOperations` for a run that does not start with `Boot`: the block has no state before it
  (spec/93_implementation_defined.md U19, "refuse"). Safe. No instruction and no step raises it. -/
  | notBooted
deriving DecidableEq, Repr

/-- `Mem` (R23): the bytes that differ from what an unlisted address reads as, by strictly rising address. -/
abbrev Memory := List Host.Cell

/-- `FB` (R24, R160): 2048 one-bit cells; bit `y*64 + x` is cell `(x, y)`, 1 is lit (log 11). -/
abbrev FrameBuffer := BitVec 2048

/-- The state of the block. -/
structure State where
  /-- `V[0]` to `V[15]` (R10); `VF` is `V[15]` (R15). -/
  v       : Vector Byte 16
  /-- The index register `I`, 16 bits, not masked (R16). -/
  i       : Word
  /-- The program counter `PC`, 16 bits, not masked (R12, R14). -/
  pc      : Word
  /-- The stack pointer `SP`, 8 bits, legal values 0 to 16 (R17). -/
  sp      : Byte
  /-- `Stack[0]` to `Stack[15]` (R20). -/
  stack   : Vector Word 16
  /-- The delay timer `DT` (R18). -/
  dt      : Byte
  /-- The sound timer `ST` (R19). -/
  st      : Byte
  /-- The run state `RUN` (R21). -/
  run     : RunState
  /-- `Mem` (R23). -/
  mem     : Memory
  /-- `FB` (R24). -/
  fb      : FrameBuffer
  /-- The model's own: the outcome the last step handed out (R201; log 4). Nothing in the machine reads it. -/
  outcome : StepOutcome
  /-- The model's own: the key state supplied with the next step (R27, R180; log 2). -/
  keys    : Config.Keys
  /-- The model's own: the random byte supplied with the next step (R27, R132; log 2). -/
  rnd     : Byte
  /-- The model's own: how many `Tick()` come before the next step (R187; log 3). -/
  ticks   : Nat
  /-- The model's own: how many draws of inputs were made (log 2). -/
  clock   : Nat
deriving DecidableEq, Repr

/-- The form of an instruction's answer and of a step's. -/
abbrev Result := Host.Outcome State Fault Refusal

/-- The state after `Reset()` (R26, R233), with nothing listed in memory: what every run that starts with `Boot` and then `Reset`
comes to (`runOperations_boot_reset` in Laws; log 12). The first step's inputs are free as every later one's are: draw 0 of
the opaque streams (R7, R216). DESIGN CHOICE for the stack slots (log 6) and for the model's own fields (log 2, 3, 4). One
statement speaks of those, `RunsStartWithBootAndComplete`: it says that a boot and a reset set them as they are here, and calls
that the model's choice. -/
def State.reset : State where
  v       := Vector.replicate 16 0x00
  i       := 0x0000
  pc      := 0x0200
  sp      := 0
  stack   := Vector.replicate 16 0x0000
  dt      := 0x00
  st      := 0x00
  run     := .ready
  mem     := []
  fb      := 0
  outcome := .done
  keys    := Config.keysAt 0
  rnd     := Config.rndAt 0
  ticks   := Config.ticksAt 0
  clock   := 1

end Sys2Proof.Machine
end

