-- ==== Sys2Proof/Machine/Flags.lean ====
section
/-! DEFINITION. Every computation of a value for `VF` (spec/10_state.md R15), from the exact values (R120). -/

namespace Sys2Proof.Machine

/-- A flag as the byte that `VF` then holds: 1 or 0 (R15). -/
def flagByte (b : Bool) : Byte := if b then 0x01 else 0x00

/-- `8xy4`: 1 if the exact sum is above 255 (R127). -/
def carryFlag (a b : Byte) : Byte := flagByte (decide (a.toNat + b.toNat > 255))

/-- `8xy5` and, with the operands exchanged, `8xy7`: 1 if `a ≥ b`, no borrow (R128, R130). -/
def noBorrowFlag (a b : Byte) : Byte := flagByte (decide (a.toNat ≥ b.toNat))

/-- `8xy6`: the bit shifted out to the right, `a & 1` (R129). -/
def lowBitFlag (a : Byte) : Byte := a &&& 1

/-- `8xyE`: the bit shifted out to the left, `(a >> 7) & 1` (R131). -/
def highBitFlag (a : Byte) : Byte := (a >>> 7) &&& 1

/-- `Dxyn`: 1 if the pixel ended off, 0 if on (R166). -/
def pixelFlag (new : Bool) : Byte := flagByte (!new)

end Sys2Proof.Machine
end

