-- ==== Sys2Proof/Syntax.lean ====
section
/-! DEFINITION. The 34 instructions of spec/opcode_table.json (spec/30_encoding.md R63), one constructor for each row, and
the form of a row of that table. Every operand is a field of the word, at the field's own width (R61). -/

namespace Sys2Proof

/-- The instruction set (R63). Each constructor's comment is its row's pattern. -/
inductive Instr where
  | cls                                   -- 00E0
  | ret                                   -- 00EE
  | jp     (nnn : Addr)                   -- 1nnn
  | call   (nnn : Addr)                   -- 2nnn
  | seImm  (x : Reg) (kk : Byte)          -- 3xkk
  | sneImm (x : Reg) (kk : Byte)          -- 4xkk
  | seReg  (x y : Reg)                    -- 5xy0
  | ldImm  (x : Reg) (kk : Byte)          -- 6xkk
  | addImm (x : Reg) (kk : Byte)          -- 7xkk
  | ldReg  (x y : Reg)                    -- 8xy0
  | orReg  (x y : Reg)                    -- 8xy1
  | andReg (x y : Reg)                    -- 8xy2
  | xorReg (x y : Reg)                    -- 8xy3
  | addReg (x y : Reg)                    -- 8xy4
  | subReg (x y : Reg)                    -- 8xy5
  | shr    (x y : Reg)                    -- 8xy6, y ignored (R68)
  | subn   (x y : Reg)                    -- 8xy7
  | shl    (x y : Reg)                    -- 8xyE, y ignored (R68)
  | sneReg (x y : Reg)                    -- 9xy0
  | ldI    (nnn : Addr)                   -- Annn
  | jpV0   (nnn : Addr)                   -- Bnnn
  | rnd    (x : Reg) (kk : Byte)          -- Cxkk
  | drw    (x y : Reg) (n : Nibble)       -- Dxyn
  | skp    (x : Reg)                      -- Ex9E
  | sknp   (x : Reg)                      -- ExA1
  | ldVxDt (x : Reg)                      -- Fx07
  | ldVxK  (x : Reg)                      -- Fx0A
  | ldDtVx (x : Reg)                      -- Fx15
  | ldStVx (x : Reg)                      -- Fx18
  | addI   (x : Reg)                      -- Fx1E
  | ldF    (x : Reg)                      -- Fx29
  | ldB    (x : Reg)                      -- Fx33
  | stRegs (x : Reg)                      -- Fx55
  | ldRegs (x : Reg)                      -- Fx65
deriving DecidableEq, Repr

/-- A row of the opcode map: a word matches it when `op & mask = pattern` (R63). -/
structure Row where
  mnemonic : String
  pattern  : Word
  mask     : Word
deriving DecidableEq, Repr

end Sys2Proof
end

