-- ==== Sys2Proof/WellFormed.lean ====
section
/-! DEFINITION. Well-formedness of the opcode map: what makes a table of rows one that a decoder can follow in any order
(spec/30_encoding.md R63: "the rows are pairwise disjoint, so order does not matter"). An INSTRUCTION needs no check: every
operand of `Instr` has exactly the width of its field (R61), every value of the field is legal (R10, R68), so no ill-formed
instruction can be written. -/

namespace Sys2Proof

/-- A row asks nothing of a bit outside its mask. -/
def Row.wellFormed (r : Row) : Bool := r.pattern &&& ~~~r.mask == 0

/-- The word `op` matches row `r` (R63). -/
def Row.fits (r : Row) (op : Word) : Bool := op &&& r.mask == r.pattern

/-- No word matches both rows: they ask for different values of a bit that both look at. -/
def Row.disjoint (r q : Row) : Bool := (r.pattern ^^^ q.pattern) &&& (r.mask &&& q.mask) != 0

/-- A well-formed opcode map: every row is, no two rows share a word, no mnemonic stands twice. -/
def tableWellFormed : List Row → Bool
  | [] => true
  | r :: rest => r.wellFormed && rest.all (fun q => r.disjoint q && r.mnemonic != q.mnemonic) && tableWellFormed rest

end Sys2Proof
end

