-- ==== Sys2Proof/Decode.lean ====
section
/-! DEFINITION. The opcode map (spec/30_encoding.md R63), the decoder that follows it (R65), total on any bytes, and the
encoder, written from the same map. -/

namespace Sys2Proof

/-- The opcode map of R63, row by row in its order. -/
def opcodeTable : List Row :=
  [⟨"00E0", 0x00E0, 0xFFFF⟩, ⟨"00EE", 0x00EE, 0xFFFF⟩, ⟨"1nnn", 0x1000, 0xF000⟩, ⟨"2nnn", 0x2000, 0xF000⟩,
   ⟨"3xkk", 0x3000, 0xF000⟩, ⟨"4xkk", 0x4000, 0xF000⟩, ⟨"5xy0", 0x5000, 0xF00F⟩, ⟨"6xkk", 0x6000, 0xF000⟩,
   ⟨"7xkk", 0x7000, 0xF000⟩, ⟨"8xy0", 0x8000, 0xF00F⟩, ⟨"8xy1", 0x8001, 0xF00F⟩, ⟨"8xy2", 0x8002, 0xF00F⟩] ++
  [⟨"8xy3", 0x8003, 0xF00F⟩, ⟨"8xy4", 0x8004, 0xF00F⟩, ⟨"8xy5", 0x8005, 0xF00F⟩, ⟨"8xy6", 0x8006, 0xF00F⟩,
   ⟨"8xy7", 0x8007, 0xF00F⟩, ⟨"8xyE", 0x800E, 0xF00F⟩, ⟨"9xy0", 0x9000, 0xF00F⟩, ⟨"Annn", 0xA000, 0xF000⟩,
   ⟨"Bnnn", 0xB000, 0xF000⟩, ⟨"Cxkk", 0xC000, 0xF000⟩, ⟨"Dxyn", 0xD000, 0xF000⟩, ⟨"Ex9E", 0xE09E, 0xF0FF⟩] ++
  [⟨"ExA1", 0xE0A1, 0xF0FF⟩, ⟨"Fx07", 0xF007, 0xF0FF⟩, ⟨"Fx0A", 0xF00A, 0xF0FF⟩, ⟨"Fx15", 0xF015, 0xF0FF⟩,
   ⟨"Fx18", 0xF018, 0xF0FF⟩, ⟨"Fx1E", 0xF01E, 0xF0FF⟩, ⟨"Fx29", 0xF029, 0xF0FF⟩, ⟨"Fx33", 0xF033, 0xF0FF⟩,
   ⟨"Fx55", 0xF055, 0xF0FF⟩, ⟨"Fx65", 0xF065, 0xF0FF⟩]

/-- Why the decoder answers no instruction. -/
inductive DecodeError where
  /-- The word matches no row of R63. No error of the machine: the step only advances (R66). -/
  | unrecognized (op : Word)
  /-- Fewer than two bytes were given. Never the case for a fetch, which reads two (R203). -/
  | truncated
deriving DecidableEq, Repr

/-- `c = op[15:12]`, the group (R61). -/
def fieldC (op : Word) : Nibble := op.extractLsb' 12 4
/-- `nnn = op[11:0]` (R61). -/
def fieldNnn (op : Word) : Addr := op.extractLsb' 0 12
/-- `x = op[11:8]` (R61). -/
def fieldX (op : Word) : Reg := op.extractLsb' 8 4
/-- `y = op[7:4]` (R61). -/
def fieldY (op : Word) : Reg := op.extractLsb' 4 4
/-- `kk = op[7:0]` (R61). -/
def fieldKk (op : Word) : Byte := op.extractLsb' 0 8
/-- `n = op[3:0]` (R61). -/
def fieldN (op : Word) : Nibble := op.extractLsb' 0 4

/-- Group `c = 0`: the whole word is compared (R65, D23). -/
def decode0 (op : Word) : Except DecodeError Instr :=
  if op = 0x00E0 then .ok .cls
  else if op = 0x00EE then .ok .ret
  else .error (.unrecognized op)

/-- Group `c = 8`: the low nibble selects (R65). -/
def decode8 (op : Word) : Except DecodeError Instr :=
  match (fieldN op).toNat with
  | 0x0 => .ok (.ldReg (fieldX op) (fieldY op))
  | 0x1 => .ok (.orReg (fieldX op) (fieldY op))
  | 0x2 => .ok (.andReg (fieldX op) (fieldY op))
  | 0x3 => .ok (.xorReg (fieldX op) (fieldY op))
  | 0x4 => .ok (.addReg (fieldX op) (fieldY op))
  | 0x5 => .ok (.subReg (fieldX op) (fieldY op))
  | 0x6 => .ok (.shr (fieldX op) (fieldY op))
  | 0x7 => .ok (.subn (fieldX op) (fieldY op))
  | 0xE => .ok (.shl (fieldX op) (fieldY op))
  | _ => .error (.unrecognized op)

/-- Group `c = E`: the low byte selects (R65). -/
def decodeE (op : Word) : Except DecodeError Instr :=
  if fieldKk op = 0x9E then .ok (.skp (fieldX op))
  else if fieldKk op = 0xA1 then .ok (.sknp (fieldX op))
  else .error (.unrecognized op)

/-- Group `c = F`: the low byte selects (R65). -/
def decodeF (op : Word) : Except DecodeError Instr :=
  if fieldKk op = 0x07 then .ok (.ldVxDt (fieldX op))
  else if fieldKk op = 0x0A then .ok (.ldVxK (fieldX op))
  else if fieldKk op = 0x15 then .ok (.ldDtVx (fieldX op))
  else if fieldKk op = 0x18 then .ok (.ldStVx (fieldX op))
  else if fieldKk op = 0x1E then .ok (.addI (fieldX op))
  else if fieldKk op = 0x29 then .ok (.ldF (fieldX op))
  else if fieldKk op = 0x33 then .ok (.ldB (fieldX op))
  else if fieldKk op = 0x55 then .ok (.stRegs (fieldX op))
  else if fieldKk op = 0x65 then .ok (.ldRegs (fieldX op))
  else .error (.unrecognized op)

/-- The decoder of one instruction word, by group (R65). -/
def decodeWord (op : Word) : Except DecodeError Instr :=
  match (fieldC op).toNat with
  | 0x0 => decode0 op
  | 0x1 => .ok (.jp (fieldNnn op))
  | 0x2 => .ok (.call (fieldNnn op))
  | 0x3 => .ok (.seImm (fieldX op) (fieldKk op))
  | 0x4 => .ok (.sneImm (fieldX op) (fieldKk op))
  | 0x5 => if fieldN op = 0 then .ok (.seReg (fieldX op) (fieldY op)) else .error (.unrecognized op)
  | 0x6 => .ok (.ldImm (fieldX op) (fieldKk op))
  | 0x7 => .ok (.addImm (fieldX op) (fieldKk op))
  | 0x8 => decode8 op
  | 0x9 => if fieldN op = 0 then .ok (.sneReg (fieldX op) (fieldY op)) else .error (.unrecognized op)
  | 0xA => .ok (.ldI (fieldNnn op))
  | 0xB => .ok (.jpV0 (fieldNnn op))
  | 0xC => .ok (.rnd (fieldX op) (fieldKk op))
  | 0xD => .ok (.drw (fieldX op) (fieldY op) (fieldN op))
  | 0xE => decodeE op
  | 0xF => decodeF op
  | _ => .error (.unrecognized op)

/-- The word of two bytes in memory order: big-endian, `Mem[PC] ++ Mem[PC+1]` (R41). -/
def wordOfBytes (hi lo : Byte) : Word := hi ++ lo

/-- The decoder on bytes: the instruction and the bytes after it (R60: two bytes each). -/
def decode : List Byte → Except DecodeError (Instr × List Byte)
  | hi :: lo :: rest =>
    match decodeWord (wordOfBytes hi lo) with
    | .ok i => .ok (i, rest)
    | .error e => .error e
  | _ => .error .truncated

/-- Format `XKK` (R62): group, `x`, `kk`. -/
def wordXkk (c : Nibble) (x : Reg) (kk : Byte) : Word := c ++ x ++ kk
/-- Format `ADDR` (R62): group, `nnn`. -/
def wordAddr (c : Nibble) (nnn : Addr) : Word := c ++ nnn
/-- Formats `XY` and `XYN` (R62): group, `x`, `y`, low nibble. -/
def wordXyn (c : Nibble) (x y : Reg) (n : Nibble) : Word := c ++ x ++ y ++ n

/-- The encoder, from the patterns of R63 in the formats of R62. -/
def encode : Instr → Word
  | .cls         => 0x00E0
  | .ret         => 0x00EE
  | .jp nnn      => wordAddr 0x1 nnn
  | .call nnn    => wordAddr 0x2 nnn
  | .seImm x kk  => wordXkk 0x3 x kk
  | .sneImm x kk => wordXkk 0x4 x kk
  | .seReg x y   => wordXyn 0x5 x y 0x0
  | .ldImm x kk  => wordXkk 0x6 x kk
  | .addImm x kk => wordXkk 0x7 x kk
  | .ldReg x y   => wordXyn 0x8 x y 0x0
  | .orReg x y   => wordXyn 0x8 x y 0x1
  | .andReg x y  => wordXyn 0x8 x y 0x2
  | .xorReg x y  => wordXyn 0x8 x y 0x3
  | .addReg x y  => wordXyn 0x8 x y 0x4
  | .subReg x y  => wordXyn 0x8 x y 0x5
  | .shr x y     => wordXyn 0x8 x y 0x6
  | .subn x y    => wordXyn 0x8 x y 0x7
  | .shl x y     => wordXyn 0x8 x y 0xE
  | .sneReg x y  => wordXyn 0x9 x y 0x0
  | .ldI nnn     => wordAddr 0xA nnn
  | .jpV0 nnn    => wordAddr 0xB nnn
  | .rnd x kk    => wordXkk 0xC x kk
  | .drw x y n   => wordXyn 0xD x y n
  | .skp x       => wordXkk 0xE x 0x9E
  | .sknp x      => wordXkk 0xE x 0xA1
  | .ldVxDt x    => wordXkk 0xF x 0x07
  | .ldVxK x     => wordXkk 0xF x 0x0A
  | .ldDtVx x    => wordXkk 0xF x 0x15
  | .ldStVx x    => wordXkk 0xF x 0x18
  | .addI x      => wordXkk 0xF x 0x1E
  | .ldF x       => wordXkk 0xF x 0x29
  | .ldB x       => wordXkk 0xF x 0x33
  | .stRegs x    => wordXkk 0xF x 0x55
  | .ldRegs x    => wordXkk 0xF x 0x65

/-- The row of the opcode map an instruction belongs to, by its mnemonic (R63). -/
def Instr.mnemonic : Instr → String
  | .cls => "00E0" | .ret => "00EE" | .jp _ => "1nnn" | .call _ => "2nnn"
  | .seImm _ _ => "3xkk" | .sneImm _ _ => "4xkk" | .seReg _ _ => "5xy0" | .ldImm _ _ => "6xkk"
  | .addImm _ _ => "7xkk" | .ldReg _ _ => "8xy0" | .orReg _ _ => "8xy1" | .andReg _ _ => "8xy2"
  | .xorReg _ _ => "8xy3" | .addReg _ _ => "8xy4" | .subReg _ _ => "8xy5" | .shr _ _ => "8xy6"
  | .subn _ _ => "8xy7" | .shl _ _ => "8xyE" | .sneReg _ _ => "9xy0" | .ldI _ => "Annn"
  | .jpV0 _ => "Bnnn" | .rnd _ _ => "Cxkk" | .drw _ _ _ => "Dxyn" | .skp _ => "Ex9E"
  | .sknp _ => "ExA1" | .ldVxDt _ => "Fx07" | .ldVxK _ => "Fx0A" | .ldDtVx _ => "Fx15"
  | .ldStVx _ => "Fx18" | .addI _ => "Fx1E" | .ldF _ => "Fx29" | .ldB _ => "Fx33"
  | .stRegs _ => "Fx55" | .ldRegs _ => "Fx65"

/-- The high byte of a word, the one stored at the lower address (R41). -/
def highByte (op : Word) : Byte := op.extractLsb' 8 8
/-- The low byte of a word, the one stored at the higher address (R41). -/
def lowByte (op : Word) : Byte := op.extractLsb' 0 8

/-- The instruction word whose bits, numbered as spec/opcode_table.json numbers them, are the low `nbits` bits of `w`. -/
def tableWord (nbits w : Nat) : Word := BitVec.ofNat 16 (w % 2 ^ nbits)

/-- What the decoder reads from the bytes of `tableWord nbits w`, laid out in memory order. -/
def decodeTableWord (nbits w : Nat) : Option Instr :=
  match decode [highByte (tableWord nbits w), lowByte (tableWord nbits w)] with
  | .ok (i, _) => some i
  | .error _ => none

end Sys2Proof
end

