-- ==== Sys2Proof/Machine/Ops.lean ====
section
/-! DEFINITION. The named operations over memory, registers, stack, framebuffer, run state and timers, each once: the
notation of spec/00_scope.md R8 and the primitives of spec/40_control_flow.md R100, R101, spec/43_display.md R161 to R163,
spec/60_exceptions.md R202, R203, R206, R208 and spec/44_keys_timers.md R187. -/

namespace Sys2Proof.Machine

/-! ### Answers -/

/-- Do `f` to the next state, if the answer is one. -/
def Result.andThen (r : Result) (f : State → State) : Result :=
  match r with
  | .next s    => .next (f s)
  | .fault e   => .fault e
  | .refused e => .refused e

/-! ### Memory (spec/20_memory.md) -/

/-- What an address that the list does not hold reads as: 0x00, the content after `Reset()` (R26; log 9). -/
def unlistedByte : Byte := 0x00

/-- `Mem[a]` (R8). The caller has checked `a ≤ 0xFFF` (R46). -/
def Memory.read : Memory → Nat → Byte
  | [], _ => unlistedByte
  | c :: rest, a => if c.1 = a then c.2 else Memory.read rest a

/-- Put a byte at an address of the list, keeping the canonical form: an address that would read the same unlisted is
not listed. -/
def Memory.put : Memory → Nat → Byte → Memory
  | [], a, b => if b = unlistedByte then [] else [(a, b)]
  | c :: rest, a, b =>
    if a < c.1 then (if b = unlistedByte then c :: rest else (a, b) :: c :: rest)
    else if a = c.1 then (if b = unlistedByte then rest else (a, b) :: rest)
    else c :: Memory.put rest a b

/-- `MemWrite(a, 1, b)` (R8). The caller has checked `a ≤ 0xFFF` (R46); there is no byte at another address to change. -/
def Memory.write (m : Memory) (a : Nat) (b : Byte) : Memory :=
  if a < Config.memSize then m.put a b else m

/-- The canonical form: addresses of the space, strictly rising, none that reads the same unlisted. -/
def Memory.wf : Memory → Bool
  | [] => true
  | c :: rest =>
    decide (c.1 < Config.memSize) && c.2 != unlistedByte && rest.all (fun d => decide (c.1 < d.1)) && Memory.wf rest

/-- Write consecutive bytes from address `a` on, ascending (the loops of `Boot`, R230). -/
def Memory.load (m : Memory) (a : Nat) : List Byte → Memory
  | [] => m
  | b :: rest => Memory.load (m.write a b) (a + 1) rest

/-! ### General registers (spec/10_state.md R10) -/

/-- `V[r]` (R8). -/
def State.reg (s : State) (r : Reg) : Byte := s.v[r.toNat]

/-- `V[r] <- b` (R8). -/
def State.setReg (s : State) (r : Reg) (b : Byte) : State := { s with v := s.v.set r.toNat b }

/-- The flag register `VF`, which is `V[0xF]` (R15). -/
def vF : Reg := 0xF

/-! ### Program counter -/

/-- The advance, and the further 2 of a taken skip: `PC <- PC + 2` (R202, R8). -/
def State.advance (s : State) : State := { s with pc := s.pc + 2 }

/-- `PC <- PC + 2` when the condition holds: a conditional skip (R8, spec/40_control_flow.md section 3). -/
def State.skipIf (s : State) (c : Bool) : State := { s with pc := if c then s.pc + 2 else s.pc }

/-- `PC <- t`. -/
def State.setPc (s : State) (t : Word) : State := { s with pc := t }

/-- `I <- t`. -/
def State.setI (s : State) (t : Word) : State := { s with i := t }

/-! ### The other pieces of state, one update each -/

/-- The whole register file, as a range load leaves it. -/
def State.setRegs (s : State) (v : Vector Byte 16) : State := { s with v := v }

/-- `Mem`, as the stores of an instruction leave it. -/
def State.setMem (s : State) (m : Memory) : State := { s with mem := m }

/-- `FB`, as an instruction leaves it. -/
def State.setFb (s : State) (f : FrameBuffer) : State := { s with fb := f }

/-- The stack and its pointer. -/
def State.setStack (s : State) (l : Vector Word 16) (p : Byte) : State := { s with stack := l, sp := p }

/-- `DT <- b`. -/
def State.setDt (s : State) (b : Byte) : State := { s with dt := b }

/-- `ST <- b`. -/
def State.setSt (s : State) (b : Byte) : State := { s with st := b }

/-- `RUN <- r`. -/
def State.setRun (s : State) (r : RunState) : State := { s with run := r }

/-- `outcome <- o` (R200). -/
def State.setOutcome (s : State) (o : StepOutcome) : State := { s with outcome := o }

/-- The fetch (R203): nothing when `PC + 1 > 0xFFF`, else `Mem[PC] ++ Mem[PC+1]` (R41). -/
def State.fetch (s : State) : Option Word :=
  if s.pc.toNat + 1 > 0xFFF then none
  else some (wordOfBytes (s.mem.read s.pc.toNat) (s.mem.read (s.pc.toNat + 1)))

/-! ### Errors -/

/-- `raise K` (R206): the one way a fatal error is taken. The step ends with outcome `Fatal(K)` and `RUN <- FAULTED(K)`;
nothing else changes, `PC` stands where the error found it (R207). There is no return from it (R212): only `State.boot` and
`State.hostReset` leave `FAULTED(K)`. -/
def State.raiseFatal (s : State) (k : FatalKind) : State := { s with run := .faulted k, outcome := .fatal k }

/-- `report K` (R208): the step goes on, its outcome is `Reported(K)`. -/
def State.report (s : State) (k : ReportKind) : State := { s with outcome := .reported k }

/-! ### The stack controller -/

/-- What `Push` and `Pop` answer. -/
inductive StackAnswer where
  /-- Done; the new state, and for `Pop` the value. -/
  | ok (s : State) (value : Word)
  /-- Refused, nothing changed (R100, R101). -/
  | refusedWith (k : ReportKind)
  /-- `SP > 16`, which is not legal (R17). -/
  | illegal

/-- `Push(a)` (R100). -/
def State.push (s : State) (a : Word) : StackAnswer :=
  if s.sp = 16 then .refusedWith .stackOverflow
  else if h : s.sp.toNat < 16 then .ok (s.setStack (s.stack.set s.sp.toNat a) (s.sp + 1)) a
  else .illegal

/-- `Pop()` (R101): the slot keeps its content (R20). -/
def State.pop (s : State) : StackAnswer :=
  if s.sp = 0 then .refusedWith .stackUnderflow
  else if h : s.sp.toNat - 1 < 16 then .ok (s.setStack s.stack (s.sp - 1)) s.stack[s.sp.toNat - 1]
  else .illegal

/-! ### The framebuffer primitives -/

/-- Cell `(x, y)` exists (R160). -/
def inScreen (x y : Nat) : Bool := decide (x ≤ 63) && decide (y ≤ 31)

/-- `FbGet(x, y)` (R161). -/
def fbGet (f : FrameBuffer) (x y : Nat) : Bool := if inScreen x y then f.getLsbD (y * 64 + x) else false

/-- `FbSet(x, y, b)` (R162). -/
def fbSet (f : FrameBuffer) (x y : Nat) (b : Bool) : FrameBuffer :=
  if inScreen x y then
    (if b then f ||| BitVec.twoPow 2048 (y * 64 + x) else f &&& ~~~(BitVec.twoPow 2048 (y * 64 + x)))
  else f

/-- `FbClear()` (R163). -/
def fbClear : FrameBuffer := 0

/-! ### Timers -/

/-- One countdown of one timer, stopping at zero (R187, D20). -/
def countDown (t : Byte) : Byte := if t = 0 then 0 else t - 1

/-- `n` countdowns of one timer. -/
def countDownTimes : Nat → Byte → Byte
  | 0, t => t
  | n + 1, t => countDownTimes n (countDown t)

/-- `Tick()` (R187), in any run state. -/
def State.tick (s : State) : State := { s with dt := countDown s.dt, st := countDown s.st }

/-- `n` times `Tick()`, one after the other (`State.tickTimes_succ` in Laws says so). -/
def State.tickTimes (s : State) (n : Nat) : State :=
  { s with dt := countDownTimes n s.dt, st := countDownTimes n s.st }

/-! ### Inputs of the step -/

/-- The environment's free choices for the next step (R7; log 2, 3): the three opaque streams at the draw counter. -/
def State.drawInputs (s : State) : State :=
  { s with keys := Config.keysAt s.clock, rnd := Config.rndAt s.clock, ticks := Config.ticksAt s.clock,
           clock := s.clock + 1 }

end Sys2Proof.Machine
end

