-- ==== Sys2Proof/Machine/Operands.lean ====
section
/-! DEFINITION. The operand forms: the address field, the range addressed through `I` and its bounds check
(spec/20_memory.md R46), the register range `V[0..x]`, the decimal digits, the key queries, the sprite loops. -/

namespace Sys2Proof.Machine

/-- `nnn` as a 16-bit value, zero-extended (R64). -/
def addrOperand (nnn : Addr) : Word := nnn.setWidth 16

/-- The address that `Fx33`, `Fx55`, `Fx65` and `Dxyn` start from: `I`, as an exact integer (R40). -/
def State.indexAddr (s : State) : Nat := s.i.toNat

/-- The last byte of a data access through `I`, `I + last`, lies in memory (R46). -/
def State.dataInBounds (s : State) (last : Nat) : Bool := decide (s.indexAddr + last ≤ 0xFFF)

/-- The sprite read of `n` bytes lies in memory: `I + n ≤ 4096` (R46, R166, D14). -/
def State.spriteInBounds (s : State) (n : Nat) : Bool := decide (s.indexAddr + n ≤ 4096)

/-- The loop of `Fx55` (R144): `V[0]` to `V[n-1]` to `a` to `a + n - 1`, ascending. -/
def storeRange (v : Vector Byte 16) (a : Nat) : Nat → Memory → Memory
  | 0, m => m
  | n + 1, m => (storeRange v a n m).write (a + n) (v[n]?.getD 0)

/-- The loop of `Fx65` (R145): `a` to `a + n - 1` to `V[0]` to `V[n-1]`, ascending. -/
def loadRange (m : Memory) (a : Nat) : Nat → Vector Byte 16 → Vector Byte 16
  | 0, v => v
  | n + 1, v => (loadRange m a n v).setIfInBounds n (m.read (a + n))

/-- The hundreds digit of a byte (R143). -/
def hundreds (b : Byte) : Byte := BitVec.ofNat 8 (b.toNat / 100)
/-- The tens digit of a byte (R143). -/
def tens (b : Byte) : Byte := BitVec.ofNat 8 (b.toNat / 10 % 10)
/-- The units digit of a byte (R143). -/
def units (b : Byte) : Byte := BitVec.ofNat 8 (b.toNat % 10)

/-- The three stores of `Fx33`, in its order (R143). -/
def storeDigits (b : Byte) (a : Nat) (m : Memory) : Memory :=
  ((m.write a (hundreds b)).write (a + 1) (tens b)).write (a + 2) (units b)

/-- `KeyDown(k)` (R180): a number above 15 names no key and reads as not pressed (D18). -/
def keyDown (keys : Config.Keys) (k : Byte) : Bool := if h : k.toNat < 16 then keys[k.toNat] else false

/-- The least `k` in 0 to 15 with `keys[k]` true, if there is one (R183, D19). -/
def leastKeyDown (keys : Config.Keys) : Option Byte :=
  ((List.range 16).map (BitVec.ofNat 8)).find? (keyDown keys)

/-- One pixel of `Dxyn` (R166) at `(px, py)` with sprite bit `bit`, on the framebuffer and the value of `VF`. -/
def drawPixel (px py : Nat) (bit : Bool) (d : FrameBuffer × Byte) : FrameBuffer × Byte :=
  (fbSet d.1 px py (fbGet d.1 px py ^^ bit), pixelFlag (fbGet d.1 px py ^^ bit))

/-- The first `b` columns of a sprite row, left to right; bit 7 of the row is the leftmost (R166). -/
def drawRow (row : Byte) (x py : Nat) : Nat → FrameBuffer × Byte → FrameBuffer × Byte
  | 0, d => d
  | b + 1, d => drawPixel (x + b) py (row.getLsbD (7 - b)) (drawRow row x py b d)

/-- The first `n` rows of a sprite whose bytes stand at address `a`, top to bottom (R166). -/
def drawRows (m : Memory) (a x y : Nat) : Nat → FrameBuffer × Byte → FrameBuffer × Byte
  | 0, d => d
  | i + 1, d => drawRow (m.read (a + i)) x (y + i) 8 (drawRows m a x y i d)

/-- What a step does that finds a key wait pending (R183): no fetch, `PC` untouched. -/
def State.waitForKey (s : State) (x : Reg) : State :=
  match leastKeyDown s.keys with
  | some k => (s.setReg x k).setRun .ready
  | none   => s.setOutcome .awaitingInput

end Sys2Proof.Machine
end

