-- ==== Sys2Proof/Machine/ControlFlow.lean ====
section
/-! DEFINITION. The meanings of the control flow family (spec/40_control_flow.md): the execute phase, after the advance, so
`s.pc` is already the address of the following instruction. -/

namespace Sys2Proof.Machine

/-- `00EE` (R102). -/
def execRet (s : State) : Result :=
  match s.pop with
  | .ok t r        => .next (t.setPc r)
  | .refusedWith k => .next (s.report k)
  | .illegal       => .fault .stackPointerOutOfRange

/-- `1nnn` (R103). -/
def execJp (nnn : Addr) (s : State) : Result := .next (s.setPc (addrOperand nnn))

/-- `2nnn` (R104): pushes the address after the `2nnn`. -/
def execCall (nnn : Addr) (s : State) : Result :=
  match s.push s.pc with
  | .ok t _        => .next (t.setPc (addrOperand nnn))
  | .refusedWith k => .next (s.report k)
  | .illegal       => .fault .stackPointerOutOfRange

/-- `Bnnn` (R105): the sum with `V[0]` is not masked (D25). -/
def execJpV0 (nnn : Addr) (s : State) : Result :=
  .next (s.setPc (addrOperand nnn + (s.reg 0).setWidth 16))

/-- `3xkk` (R106). -/
def execSeImm (x : Reg) (kk : Byte) (s : State) : Result := .next (s.skipIf (s.reg x == kk))

/-- `4xkk` (R107). -/
def execSneImm (x : Reg) (kk : Byte) (s : State) : Result := .next (s.skipIf (s.reg x != kk))

/-- `5xy0` (R108). -/
def execSeReg (x y : Reg) (s : State) : Result := .next (s.skipIf (s.reg x == s.reg y))

/-- `9xy0` (R109). -/
def execSneReg (x y : Reg) (s : State) : Result := .next (s.skipIf (s.reg x != s.reg y))

end Sys2Proof.Machine
end

