-- ==== Sys2Proof/Machine/Display.lean ====
section
/-! DEFINITION. The meanings of the display family (spec/43_display.md). -/

namespace Sys2Proof.Machine

/-- `00E0` (R165). -/
def execCls (s : State) : Result := .next (s.setFb fbClear)

/-- The framebuffer and the value of `VF` after a sprite draw of `n` rows: `V[x]` and `V[y]` latched once, the coordinates
exact sums (R166, D15). -/
def State.drawSprite (s : State) (x y : Reg) (n : Nat) : FrameBuffer × Byte :=
  drawRows s.mem s.indexAddr (s.reg x).toNat (s.reg y).toNat n (s.fb, s.reg vF)

/-- `Dxyn` (R166). With `n = 0` the loop leaves the framebuffer and `VF` as they were. -/
def execDrw (x y : Reg) (n : Nibble) (s : State) : Result :=
  if s.spriteInBounds n.toNat then
    .next ((s.setReg vF (s.drawSprite x y n.toNat).2).setFb (s.drawSprite x y n.toNat).1)
  else .next (s.raiseFatal .outOfBoundsSpriteRead)

end Sys2Proof.Machine
end

