-- ==== Sys2Proof/Machine/IndexMemory.lean ====
section
/-! DEFINITION. The meanings of the index and memory family (spec/42_index_memory.md). The whole range is checked before
any byte moves (R46); no instruction of the family changes `I` except the three that load it. -/

namespace Sys2Proof.Machine

/-- `Annn` (R140). -/
def execLdI (nnn : Addr) (s : State) : Result := .next (s.setI (addrOperand nnn))

/-- `Fx1E` (R141): mod 65536, no flag (D10, D11). -/
def execAddI (x : Reg) (s : State) : Result := .next (s.setI (s.i + (s.reg x).setWidth 16))

/-- `Fx29` (R142): the whole byte is multiplied (D12). -/
def execLdF (x : Reg) (s : State) : Result := .next (s.setI (5 * (s.reg x).setWidth 16))

/-- `Fx33` (R143). -/
def execLdB (x : Reg) (s : State) : Result :=
  if s.dataInBounds 2 then .next (s.setMem (storeDigits (s.reg x) s.indexAddr s.mem))
  else .next (s.raiseFatal .outOfBoundsDataAccess)

/-- `Fx55` (R144). -/
def execStRegs (x : Reg) (s : State) : Result :=
  if s.dataInBounds x.toNat then .next (s.setMem (storeRange s.v s.indexAddr (x.toNat + 1) s.mem))
  else .next (s.raiseFatal .outOfBoundsDataAccess)

/-- `Fx65` (R145). -/
def execLdRegs (x : Reg) (s : State) : Result :=
  if s.dataInBounds x.toNat then .next (s.setRegs (loadRange s.mem s.indexAddr (x.toNat + 1) s.v))
  else .next (s.raiseFatal .outOfBoundsDataAccess)

end Sys2Proof.Machine
end

