-- ==== Sys2Proof/Machine/KeysTimers.lean ====
section
/-! DEFINITION. The meanings of the key and timer family (spec/44_keys_timers.md). `s.keys` is the key state supplied to the
step that executes the instruction (R180). -/

namespace Sys2Proof.Machine

/-- `Ex9E` (R181). -/
def execSkp (x : Reg) (s : State) : Result := .next (s.skipIf (keyDown s.keys (s.reg x)))

/-- `ExA1` (R182). -/
def execSknp (x : Reg) (s : State) : Result := .next (s.skipIf (!keyDown s.keys (s.reg x)))

/-- `Fx07` (R184). -/
def execLdVxDt (x : Reg) (s : State) : Result := .next (s.setReg x s.dt)

/-- `Fx0A`, the part in the step that fetched it (R183): a key already down ends it at once (D19). -/
def execLdVxK (x : Reg) (s : State) : Result :=
  .next (match leastKeyDown s.keys with
    | some k => s.setReg x k
    | none   => (s.setRun (.awaitingKey x)).setOutcome .awaitingInput)

/-- `Fx15` (R185). -/
def execLdDtVx (x : Reg) (s : State) : Result := .next (s.setDt (s.reg x))

/-- `Fx18` (R186). -/
def execLdStVx (x : Reg) (s : State) : Result := .next (s.setSt (s.reg x))

end Sys2Proof.Machine
end

