-- ==== Sys2Proof/Machine/RegisterAlu.lean ====
section
/-! DEFINITION. The meanings of the register family (spec/41_register_alu.md). Operands are read from `s`, the state when
the execute phase begins (R120); where a rule writes both `V[x]` and `VF`, the order of the two writes is the rule's. -/

namespace Sys2Proof.Machine

/-- `6xkk` (R121). -/
def execLdImm (x : Reg) (kk : Byte) (s : State) : Result := .next (s.setReg x kk)

/-- `7xkk` (R122): mod 256, no flag. -/
def execAddImm (x : Reg) (kk : Byte) (s : State) : Result := .next (s.setReg x (s.reg x + kk))

/-- `8xy0` (R123). -/
def execLdReg (x y : Reg) (s : State) : Result := .next (s.setReg x (s.reg y))

/-- `8xy1` (R124). -/
def execOrReg (x y : Reg) (s : State) : Result := .next (s.setReg x (s.reg x ||| s.reg y))

/-- `8xy2` (R125). -/
def execAndReg (x y : Reg) (s : State) : Result := .next (s.setReg x (s.reg x &&& s.reg y))

/-- `8xy3` (R126). -/
def execXorReg (x y : Reg) (s : State) : Result := .next (s.setReg x (s.reg x ^^^ s.reg y))

/-- `8xy4` (R127): the carry is written last (D7). -/
def execAddReg (x y : Reg) (s : State) : Result :=
  .next ((s.setReg x (s.reg x + s.reg y)).setReg vF (carryFlag (s.reg x) (s.reg y)))

/-- `8xy5` (R128): the flag compares the old values and is written last (D7). -/
def execSubReg (x y : Reg) (s : State) : Result :=
  .next ((s.setReg x (s.reg x - s.reg y)).setReg vF (noBorrowFlag (s.reg x) (s.reg y)))

/-- `8xy7` (R130): the flag compares the old values and is written last (D7). -/
def execSubn (x y : Reg) (s : State) : Result :=
  .next ((s.setReg x (s.reg y - s.reg x)).setReg vF (noBorrowFlag (s.reg y) (s.reg x)))

/-- The second statement of a shift: `V[x]` re-read after the flag was written (R129, R131, D8). -/
def State.shiftAfterFlag (s : State) (x : Reg) (flag : Byte) (shift : Byte → Byte) : State :=
  (s.setReg vF flag).setReg x (shift ((s.setReg vF flag).reg x))

/-- `8xy6` (R129): flag first, then the shift of `V[x]`; `y` ignored (D9). -/
def execShr (x _y : Reg) (s : State) : Result :=
  .next (s.shiftAfterFlag x (lowBitFlag (s.reg x)) (fun b => b >>> 1))

/-- `8xyE` (R131): flag first, then the shift of `V[x]`; `y` ignored (D9). -/
def execShl (x _y : Reg) (s : State) : Result :=
  .next (s.shiftAfterFlag x (highBitFlag (s.reg x)) (fun b => b <<< 1))

/-- `Cxkk` (R132): the random byte is the step's input (D17). -/
def execRnd (x : Reg) (kk : Byte) (s : State) : Result := .next (s.setReg x (kk &&& s.rnd))

end Sys2Proof.Machine
end

