-- ==== Sys2Proof/Machine/Cycle.lean ====
section
/-! DEFINITION. The step cycle `Step(keys, rnd)` (spec/60_exceptions.md R200) and what the host's `step` does around it: the
ticks before it and the draw of the next inputs after it (log 2, 3). -/

namespace Sys2Proof.Machine

/-- The state a step starts from: its two inputs in place, the outcome `Done` until something changes it (R200). -/
def State.withInputs (s : State) (keys : Config.Keys) (rnd : Byte) : State :=
  { s with keys := keys, rnd := rnd, outcome := .done }

/-- Decode and execute the word `op`, `PC` already advanced (R204): a word that matches no row is a no-op (R66). -/
def State.execWord (s : State) (op : Word) : Result :=
  match decodeWord op with
  | .ok i    => exec i s
  | .error _ => .next s

/-- Fetch, advance, execute: a step in `READY` (R200, R202, R203). -/
def State.runReady (s : State) : Result :=
  match s.fetch with
  | none    => .next (s.raiseFatal .outOfBoundsFetch)
  | some op => s.advance.execWord op

/-- `Step(keys, rnd)` (R200). -/
def State.stepWith (s : State) (keys : Config.Keys) (rnd : Byte) : Result :=
  match s.run with
  | .faulted k     => .next ((s.withInputs keys rnd).setOutcome (.fatal k))
  | .awaitingKey x => .next ((s.withInputs keys rnd).waitForKey x)
  | .ready         => (s.withInputs keys rnd).runReady

/-- The host's step: the environment's `Tick()`s, then `Step` with the inputs that stand in the state, then the draw of the
inputs of the step after. -/
def State.hostStep (s : State) : Result :=
  ((s.tickTimes s.ticks).stepWith s.keys s.rnd).andThen State.drawInputs

/-- The word `op` stored where the next step fetches: its two bytes at `PC`, big-endian (R41), with `RUN = READY`, and `PC` at
the entry point if no word can be fetched where it stands (log 12). -/
def State.placeWord (s : State) (op : Word) : State :=
  let pc : Word := if s.pc.toNat + 1 > 0xFFF then 0x0200 else s.pc
  { s with pc := pc, run := .ready,
           mem := (s.mem.write pc.toNat (highByte op)).write (pc.toNat + 1) (lowByte op) }

end Sys2Proof.Machine
end

