-- ==== Sys2Proof/Machine/Boundary.lean ====
section
/-! DEFINITION. The six operations at the block's boundary (spec/00_scope.md R5, spec/60_exceptions.md R216), each atomic, in
any run state: `Boot`, `Reset`, `Step`, `Tick`, `Snapshot`, `DumpMemory`. -/

namespace Sys2Proof.Machine

/-- Every piece of the spec's state but memory as `Boot` and `Reset` both leave it (R25, R26); the model's own fields stay. -/
def State.initialise (s : State) (m : Memory) : State :=
  { State.reset with mem := m, outcome := s.outcome, keys := s.keys, rnd := s.rnd, ticks := s.ticks, clock := s.clock }

/-- Memory after `Boot(image)` (R230): zero, then the font at 0x000, then the image at 0x200, cut at 3584 bytes (R49). -/
def bootMemory (font : Config.Font) (image : List Byte) : Memory :=
  (Memory.load [] 0 font.toList).load Config.progBase (image.take Config.progMax)

/-- `Boot(image)` (R230), with the parameter `FONT` (R7). -/
def State.boot (s : State) (font : Config.Font) (image : List Byte) : State := s.initialise (bootMemory font image)

/-- `Reset()` (R233): as `Boot`, with memory all zero, the font area too (R26). -/
def State.hostReset (s : State) : State := s.initialise []

/-- `Snapshot()` (R164): 2048 booleans, index `y*64 + x`, `true` is lit. -/
def State.snapshot (s : State) : List Bool := (List.range 2048).map (fun k => fbGet s.fb (k % 64) (k / 64))

/-- `DumpMemory()` (R54): the 4096 bytes in address order. -/
def State.dumpMemory (s : State) : List Byte := (List.range Config.memSize).map s.mem.read

/-- An operation of the environment (R5). -/
inductive Operation where
  | boot (font : Config.Font) (image : List Byte)
  | reset
  | step (keys : Config.Keys) (rnd : Byte)
  | tick
  | snapshot
  | dumpMemory
deriving DecidableEq, Repr

/-- What an operation returns to the environment (R216). -/
inductive Response where
  | nothing
  | outcome (o : StepOutcome)
  | pixels (p : List Bool)
  | bytes (b : List Byte)
deriving DecidableEq, Repr

/-- The response of an operation, given the state after it (R216). -/
def Operation.response : Operation → State → Response
  | .step _ _, t   => .outcome t.outcome
  | .snapshot, t   => .pixels t.snapshot
  | .dumpMemory, t => .bytes t.dumpMemory
  | .boot _ _, _   => .nothing
  | .reset, _      => .nothing
  | .tick, _       => .nothing

/-- The state after an operation (R216). -/
def State.perform (s : State) : Operation → Result
  | .boot font image => .next (s.boot font image)
  | .reset           => .next s.hostReset
  | .step keys rnd   => s.stepWith keys rnd
  | .tick            => .next s.tick
  | .snapshot        => .next s
  | .dumpMemory      => .next s

/-- The state after operations one after the other (R5, D27), stopping at the first that answers no next state. -/
def State.performAll (s : State) : List Operation → Result
  | [] => .next s
  | o :: rest =>
    match s.perform o with
    | .next t    => t.performAll rest
    | .fault e   => .fault e
    | .refused e => .refused e

/-- A run of the block, from before any state exists: it starts with `Boot(image)` (R233), which overwrites every piece of state
(R230), and any other start is refused (U19). The model's own fields are those of `State.reset`, draw 0 of the streams. -/
def runOperations : List Operation → Result
  | .boot font image :: rest => (State.reset.boot font image).performAll rest
  | [] | .reset :: _ | .step _ _ :: _ | .tick :: _ | .snapshot :: _ | .dumpMemory :: _ => .refused .notBooted

end Sys2Proof.Machine
end

