-- ==== Sys2Proof/Machine/Step.lean ====
section
/-! DEFINITION. The host's step, and an instruction word placed where it fetches. What both do stands in Cycle.lean. -/

namespace Sys2Proof.Machine

/-- One step of the machine: see `State.hostStep`. -/
def step (s : State) : Host.Outcome State Fault Refusal := s.hostStep

/-- `s` with the instruction word of the low `nbits` bits of `w` where `step` fetches its next instruction. -/
def State.withFetchWord (s : State) (nbits w : Nat) : State := s.placeWord (tableWord nbits w)

end Sys2Proof.Machine
end

