-- ==== Sys2Proof/Safety.lean ====
section
/-! DEFINITION. The terms that claims about the machine use: what is unchanged from one state to another, the access table
(spec/10_state.md R28), the invariant of every reachable state, what a good end of a run is (spec/60_exceptions.md R219), and
the sprite of a `Dxyn` as a picture (spec/43_display.md R166). -/

namespace Sys2Proof.Machine

/-! ### Frames -/

/-- The live return addresses, oldest first: `Stack[0]` to `Stack[SP-1]`. Slots from `SP` on are unobservable and no frame
compares them (R20, spec/93_implementation_defined.md U11). -/
def State.live (s : State) : List Word := s.stack.toList.take s.sp.toNat

/-- The parts of the state other than the general registers. -/
inductive Part where
  | pc | index | stack | delay | sound | run | outcome | memory | screen | inputs
deriving DecidableEq, Repr

/-- Part by part, `t` has what `s` had: every byte of memory, every cell of the screen, every live return address. -/
def Part.kept : Part → State → State → Prop
  | .pc, s, t      => t.pc = s.pc
  | .index, s, t   => t.i = s.i
  | .stack, s, t   => t.sp = s.sp ∧ t.live = s.live
  | .delay, s, t   => t.dt = s.dt
  | .sound, s, t   => t.st = s.st
  | .run, s, t     => t.run = s.run
  | .outcome, s, t => t.outcome = s.outcome
  | .memory, s, t  => ∀ a, t.mem.read a = s.mem.read a
  | .screen, s, t  => ∀ x y, fbGet t.fb x y = fbGet s.fb x y
  | .inputs, s, t  => t.keys = s.keys ∧ t.rnd = s.rnd ∧ t.ticks = s.ticks ∧ t.clock = s.clock

/-- The frame: every general register but those of `regs`, and every part but those listed, is in `t` what it was in `s`. -/
def KeepsAllBut (regs : Reg → Prop) (parts : List Part) (s t : State) : Prop :=
  (∀ r, ¬ regs r → t.reg r = s.reg r) ∧ ∀ p, p ∉ parts → p.kept s t

/-- No general register. -/
def noReg : Reg → Prop := fun _ => False

/-! ### The access table (R28): what each instruction may write in its execute phase -/

/-- The general registers an instruction may write: the columns `V[x]`, `V[0]` and `VF` of R28. -/
def writesReg : Instr → Reg → Prop
  | .ldImm x _, r | .addImm x _, r | .rnd x _, r => r = x
  | .ldReg x _, r | .orReg x _, r | .andReg x _, r | .xorReg x _, r => r = x
  | .addReg x _, r | .subReg x _, r | .subn x _, r | .shr x _, r | .shl x _, r => r = x ∨ r = vF
  | .ldVxDt x, r | .ldVxK x, r => r = x
  | .drw _ _ n, r => r = vF ∧ n ≠ 0
  | .ldRegs x, r => r.toNat ≤ x.toNat
  | .cls, _ | .ret, _ | .jp _, _ | .call _, _ | .jpV0 _, _ => False
  | .seImm _ _, _ | .sneImm _ _, _ | .seReg _ _, _ | .sneReg _ _, _ | .skp _, _ | .sknp _, _ => False
  | .ldI _, _ | .addI _, _ | .ldF _, _ | .ldB _, _ | .stRegs _, _ | .ldDtVx _, _ | .ldStVx _, _ => False

/-- The other parts an instruction may write: the remaining columns of R28, and the outcome where it reports, waits or
raises. -/
def writesPart : Instr → List Part
  | .cls => [.screen]
  | .ret | .call _ => [.pc, .stack, .outcome]
  | .jp _ | .jpV0 _ => [.pc]
  | .seImm _ _ | .sneImm _ _ | .seReg _ _ | .sneReg _ _ | .skp _ | .sknp _ => [.pc]
  | .ldI _ | .addI _ | .ldF _ => [.index]
  | .drw _ _ _ => [.screen, .run, .outcome]
  | .ldVxK _ | .ldRegs _ => [.run, .outcome]
  | .ldDtVx _ => [.delay]
  | .ldStVx _ => [.sound]
  | .ldB _ | .stRegs _ => [.memory, .run, .outcome]
  | .ldImm _ _ | .addImm _ _ | .ldReg _ _ | .orReg _ _ | .andReg _ _ | .xorReg _ _ => []
  | .addReg _ _ | .subReg _ _ | .subn _ _ | .shr _ _ | .shl _ _ | .rnd _ _ | .ldVxDt _ => []

/-! ### The invariant -/

/-- What holds of every state the machine reaches: memory in its canonical form, `SP` at most 16 (R17), `PC` at most 0x10FE
(R14), every live return address at most 0x1000 (R14, R104). -/
def State.Inv (s : State) : Prop :=
  s.mem.wf = true ∧ s.sp.toNat ≤ 16 ∧ s.pc.toNat ≤ 0x10FE ∧ ∀ a ∈ s.live, a.toNat ≤ 0x1000

/-- The outcome a step hands out and the run state it leaves agree (the table of R201). -/
def State.outcomeAgrees (s : State) : Prop :=
  match s.outcome with
  | .done          => s.run = .ready
  | .reported _    => s.run = .ready
  | .awaitingInput => ∃ x, s.run = .awaitingKey x
  | .fatal k       => s.run = .faulted k

/-! ### Ends of a run -/

/-- "Parked" at `a` (R219): the next instruction is a jump to itself. A faulted or waiting state is no end of a run. -/
def State.parked (s : State) (a : Addr) : Prop :=
  s.run = .ready ∧ s.pc.toNat = a.toNat ∧ a.toNat ≤ 0xFFE ∧ s.fetch = some (wordAddr 0x1 a)

/-! ### The sprite as a picture -/

/-- The bit that `Dxyn` XORs into cell `(cx, cy)`: bit `7 - (cx - X)` of byte `cy - Y` of the sprite inside its box, 0
outside (R166). -/
def State.spriteBit (s : State) (x y : Reg) (n : Nat) (cx cy : Nat) : Bool :=
  let left := (s.reg x).toNat
  let top := (s.reg y).toNat
  decide (left ≤ cx ∧ cx < left + 8 ∧ top ≤ cy ∧ cy < top + n) &&
    (s.mem.read (s.indexAddr + (cy - top))).getLsbD (7 - (cx - left))

end Sys2Proof.Machine
end

