-- ==== Sys2Proof/Certificates/Slice0/Obligations.lean ====
section
/-! DEFINITION. The statements for the provers. Those about an instruction say of its word that it decodes to it, and of its
execute phase, from EVERY state `s` (whose `pc` is then the address of the following instruction, spec/60_exceptions.md R202),
that it answers a next state, what that state holds, and that nothing else changes. -/

open Sys2Proof Sys2Proof.Machine

/-! ### Encoding (spec/30_encoding.md) -/

/-- A word of every group `c` (R61), written out from the patterns of R63 and the vectors of spec/95_test_vectors.md section 2.1,
the first one as two bytes in memory order, and two words that match no row. -/
def Obligations.SampleWordsDecode : Prop :=
  decode [0x12, 0x34] = .ok (.jp 0x234, []) ∧ decodeWord 0x00E0 = .ok .cls ∧ decodeWord 0x00EE = .ok .ret ∧
  decodeWord 0x8AB4 = .ok (.addReg 0xA 0xB) ∧ decodeWord 0xD12F = .ok (.drw 0x1 0x2 0xF) ∧
  decodeWord 0xFF65 = .ok (.ldRegs 0xF) ∧ decodeWord 0xE49E = .ok (.skp 0x4) ∧ decodeWord 0x6A3C = .ok (.ldImm 0xA 0x3C) ∧
  decodeWord 0x2ABC = .ok (.call 0xABC) ∧ decodeWord 0x3A42 = .ok (.seImm 0xA 0x42) ∧
  decodeWord 0x4B17 = .ok (.sneImm 0xB 0x17) ∧ decodeWord 0x5AB0 = .ok (.seReg 0xA 0xB) ∧
  decodeWord 0x7102 = .ok (.addImm 0x1 0x02) ∧ decodeWord 0x9CD0 = .ok (.sneReg 0xC 0xD) ∧
  decodeWord 0xA123 = .ok (.ldI 0x123) ∧ decodeWord 0xB3F7 = .ok (.jpV0 0x3F7) ∧ decodeWord 0xC30F = .ok (.rnd 0x3 0x0F) ∧
  decodeWord 0x8128 = .error (.unrecognized 0x8128) ∧ decodeWord 0x5121 = .error (.unrecognized 0x5121)

/-- R61, R63: no bit of an encoding is lost; every instruction, with every operand, is read back from its word. -/
def Obligations.DecodeOfEncodeIsTheInstruction : Prop :=
  ∀ i : Instr, decodeWord (encode i) = .ok i

/-- R61, R63: a word that decodes is the word of the instruction it decodes to, so no two words mean the same instruction. -/
def Obligations.EncodeOfDecodeIsTheWord : Prop :=
  ∀ (op : Word) (i : Instr), decodeWord op = .ok i → encode i = op

/-- R63, R204: the decoder follows the opcode map: a word decodes to the instruction of a row it matches, and is rejected by
name exactly when it matches no row. -/
def Obligations.DecoderFollowsTheOpcodeMap : Prop :=
  ∀ op : Word,
    (∃ i, decodeWord op = .ok i ∧ ∃ r ∈ opcodeTable, r.mnemonic = i.mnemonic ∧ op &&& r.mask = r.pattern) ∨
    (decodeWord op = .error (.unrecognized op) ∧ ∀ r ∈ opcodeTable, op &&& r.mask ≠ r.pattern)

/-! ### Control flow (spec/40_control_flow.md) -/

/-- R103. -/
def Obligations.JumpLoadsTheAddress : Prop :=
  ∀ (nnn : Addr) (s : State), decodeWord (wordAddr 0x1 nnn) = .ok (.jp nnn) ∧
    ∃ t, exec (.jp nnn) s = .next t ∧ t.pc.toNat = nnn.toNat ∧ KeepsAllBut noReg [.pc] s t

/-- 40_control_flow.md section 2 (`Bnnn`): the exact sum, not masked to 12 bits, which is the spec's decision D25. -/
def Obligations.JumpWithOffsetAddsV0 : Prop :=
  ∀ (nnn : Addr) (s : State), decodeWord (wordAddr 0xB nnn) = .ok (.jpV0 nnn) ∧
    ∃ t, exec (.jpV0 nnn) s = .next t ∧ t.pc.toNat = nnn.toNat + (s.reg 0).toNat ∧ KeepsAllBut noReg [.pc] s t

/-- R100, R104: with a free slot the address after the `2nnn` is pushed and `PC` loaded; at `SP = 16` the overflow is reported
and nothing else changes, `PC` as advanced. -/
def Obligations.CallPushesAndJumps : Prop :=
  ∀ (nnn : Addr) (s : State), decodeWord (wordAddr 0x2 nnn) = .ok (.call nnn) ∧
    (s.sp.toNat < 16 → ∃ t, exec (.call nnn) s = .next t ∧ t.pc.toNat = nnn.toNat ∧ t.sp.toNat = s.sp.toNat + 1 ∧
      t.live = s.live ++ [s.pc] ∧ KeepsAllBut noReg [.pc, .stack] s t) ∧
    (s.sp.toNat = 16 → ∃ t, exec (.call nnn) s = .next t ∧ t.outcome = .reported .stackOverflow ∧
      KeepsAllBut noReg [.outcome] s t)

/-- R101, R102: with a live return address it is popped into `PC`; at `SP = 0` the underflow is reported and nothing else
changes, `PC` as advanced. -/
def Obligations.ReturnPopsTheAddress : Prop :=
  ∀ s : State, decodeWord 0x00EE = .ok .ret ∧
    (0 < s.sp.toNat → s.sp.toNat ≤ 16 → ∃ t, exec .ret s = .next t ∧ t.sp.toNat + 1 = s.sp.toNat ∧
      t.live ++ [t.pc] = s.live ∧ KeepsAllBut noReg [.pc, .stack] s t) ∧
    (s.sp.toNat = 0 → ∃ t, exec .ret s = .next t ∧ t.outcome = .reported .stackUnderflow ∧
      KeepsAllBut noReg [.outcome] s t)

/-- The MODEL's choice (log 7): with `SP` above 16, which R17 calls not legal and no run reaches, both stack instructions stop
with the fault of that name. -/
def Obligations.IllegalStackPointerStops : Prop :=
  ∀ (nnn : Addr) (s : State), 16 < s.sp.toNat →
    exec (.call nnn) s = .fault .stackPointerOutOfRange ∧ exec .ret s = .fault .stackPointerOutOfRange

/-- 40_control_flow.md sections 1 and 2: a call and the return that answers it come back to the address after the call, with
the caller's stack. -/
def Obligations.ReturnUndoesCall : Prop :=
  ∀ (nnn : Addr) (s : State), s.sp.toNat < 16 →
    ∃ t u, exec (.call nnn) s = .next t ∧ exec .ret t = .next u ∧ u.pc = s.pc ∧ KeepsAllBut noReg [.pc] s u

/-- R106, R107: the skips on an immediate, `PC + 2` on top of the advance. -/
def Obligations.ImmediateSkips : Prop :=
  ∀ (x : Reg) (kk : Byte) (s : State),
    (decodeWord (wordXkk 0x3 x kk) = .ok (.seImm x kk) ∧
      ∃ t, exec (.seImm x kk) s = .next t ∧ t.pc = (if s.reg x = kk then s.pc + 2 else s.pc) ∧
        KeepsAllBut noReg [.pc] s t) ∧
    (decodeWord (wordXkk 0x4 x kk) = .ok (.sneImm x kk) ∧
      ∃ t, exec (.sneImm x kk) s = .next t ∧ t.pc = (if s.reg x = kk then s.pc else s.pc + 2) ∧
        KeepsAllBut noReg [.pc] s t)

/-- R108, R109: the skips on two registers. -/
def Obligations.RegisterSkips : Prop :=
  ∀ (x y : Reg) (s : State),
    (decodeWord (wordXyn 0x5 x y 0) = .ok (.seReg x y) ∧
      (∀ n : Nibble, n ≠ 0 → decodeWord (wordXyn 0x5 x y n) = .error (.unrecognized (wordXyn 0x5 x y n))) ∧
      ∃ t, exec (.seReg x y) s = .next t ∧ t.pc = (if s.reg x = s.reg y then s.pc + 2 else s.pc) ∧
        KeepsAllBut noReg [.pc] s t) ∧
    (decodeWord (wordXyn 0x9 x y 0) = .ok (.sneReg x y) ∧
      (∀ n : Nibble, n ≠ 0 → decodeWord (wordXyn 0x9 x y n) = .error (.unrecognized (wordXyn 0x9 x y n))) ∧
      ∃ t, exec (.sneReg x y) s = .next t ∧ t.pc = (if s.reg x = s.reg y then s.pc else s.pc + 2) ∧
        KeepsAllBut noReg [.pc] s t)

/-! ### Registers (spec/41_register_alu.md) -/

/-- R121. -/
def Obligations.LoadImmediate : Prop :=
  ∀ (x : Reg) (kk : Byte) (s : State), decodeWord (wordXkk 0x6 x kk) = .ok (.ldImm x kk) ∧
    ∃ t, exec (.ldImm x kk) s = .next t ∧ t.reg x = kk ∧ KeepsAllBut (· = x) [] s t

/-- R122: mod 256; `VF` is in the frame unless `x = 0xF` names it. -/
def Obligations.AddImmediateWrapsWithoutFlag : Prop :=
  ∀ (x : Reg) (kk : Byte) (s : State), decodeWord (wordXkk 0x7 x kk) = .ok (.addImm x kk) ∧
    ∃ t, exec (.addImm x kk) s = .next t ∧ (t.reg x).toNat = ((s.reg x).toNat + kk.toNat) % 256 ∧
      KeepsAllBut (· = x) [] s t

/-- R123: `V[y]` is in the frame, and unchanged when `x = y` too. -/
def Obligations.CopyRegister : Prop :=
  ∀ (x y : Reg) (s : State), decodeWord (wordXyn 0x8 x y 0) = .ok (.ldReg x y) ∧
    ∃ t, exec (.ldReg x y) s = .next t ∧ t.reg x = s.reg y ∧ t.reg y = s.reg y ∧ KeepsAllBut (· = x) [] s t

/-- R124, R125, R126: bit by bit; `VF` is in the frame unless `x = 0xF` names it. -/
def Obligations.BitwiseLogicWithoutFlag : Prop :=
  ∀ (x y : Reg) (s : State),
    decodeWord (wordXyn 0x8 x y 1) = .ok (.orReg x y) ∧ decodeWord (wordXyn 0x8 x y 2) = .ok (.andReg x y) ∧
    decodeWord (wordXyn 0x8 x y 3) = .ok (.xorReg x y) ∧
    (∃ t, exec (.orReg x y) s = .next t ∧ KeepsAllBut (· = x) [] s t ∧
      ∀ k, (t.reg x).getLsbD k = ((s.reg x).getLsbD k || (s.reg y).getLsbD k)) ∧
    (∃ t, exec (.andReg x y) s = .next t ∧ KeepsAllBut (· = x) [] s t ∧
      ∀ k, (t.reg x).getLsbD k = ((s.reg x).getLsbD k && (s.reg y).getLsbD k)) ∧
    (∃ t, exec (.xorReg x y) s = .next t ∧ KeepsAllBut (· = x) [] s t ∧
      ∀ k, (t.reg x).getLsbD k = ((s.reg x).getLsbD k ^^ (s.reg y).getLsbD k))

/-- 41_register_alu.md section 4 (`8xy4`): the sum, then the carry into `VF`; written last, which is the spec's decision D7,
so that with `x = 0xF` the flag stays and the sum is lost. -/
def Obligations.AddSetsCarry : Prop :=
  ∀ (x y : Reg) (s : State), decodeWord (wordXyn 0x8 x y 4) = .ok (.addReg x y) ∧
    ∃ t, exec (.addReg x y) s = .next t ∧
      (t.reg vF).toNat = (if (s.reg x).toNat + (s.reg y).toNat > 255 then 1 else 0) ∧
      (x ≠ vF → (t.reg x).toNat = ((s.reg x).toNat + (s.reg y).toNat) % 256) ∧
      KeepsAllBut (fun r => r = x ∨ r = vF) [] s t

/-- 41_register_alu.md section 4 (`8xy5`, `8xy7`): the difference, then no-borrow of the OLD values into `VF` (C5); written
last, which is the spec's decision D7. -/
def Obligations.SubtractSetsNoBorrow : Prop :=
  ∀ (x y : Reg) (s : State),
    decodeWord (wordXyn 0x8 x y 5) = .ok (.subReg x y) ∧ decodeWord (wordXyn 0x8 x y 7) = .ok (.subn x y) ∧
    (∃ t, exec (.subReg x y) s = .next t ∧
      (t.reg vF).toNat = (if (s.reg x).toNat ≥ (s.reg y).toNat then 1 else 0) ∧
      (x ≠ vF → ((t.reg x).toNat : Int) = ((s.reg x).toNat - (s.reg y).toNat : Int) % 256) ∧
      KeepsAllBut (fun r => r = x ∨ r = vF) [] s t) ∧
    (∃ t, exec (.subn x y) s = .next t ∧
      (t.reg vF).toNat = (if (s.reg y).toNat ≥ (s.reg x).toNat then 1 else 0) ∧
      (x ≠ vF → ((t.reg x).toNat : Int) = ((s.reg y).toNat - (s.reg x).toNat : Int) % 256) ∧
      KeepsAllBut (fun r => r = x ∨ r = vF) [] s t)

/-- 41_register_alu.md section 5 (`8xy6`, `8xyE`): the bit shifted out goes to `VF`, whatever `y` is (D9); with `x = 0xF` the
flag is written first and then shifted (D8), so that `VF` ends as 0 (right) or 0 or 2 (left). -/
def Obligations.ShiftsMoveTheBitOutToVF : Prop :=
  ∀ (x y : Reg) (s : State),
    decodeWord (wordXyn 0x8 x y 6) = .ok (.shr x y) ∧ decodeWord (wordXyn 0x8 x y 0xE) = .ok (.shl x y) ∧
    (∃ t, exec (.shr x y) s = .next t ∧ KeepsAllBut (fun r => r = x ∨ r = vF) [] s t ∧
      (x ≠ vF → (t.reg x).toNat = (s.reg x).toNat / 2 ∧ (t.reg vF).toNat = (s.reg x).toNat % 2) ∧
      (x = vF → (t.reg vF).toNat = 0)) ∧
    (∃ t, exec (.shl x y) s = .next t ∧ KeepsAllBut (fun r => r = x ∨ r = vF) [] s t ∧
      (x ≠ vF → (t.reg x).toNat = (s.reg x).toNat * 2 % 256 ∧ (t.reg vF).toNat = (s.reg x).toNat / 128) ∧
      (x = vF → (t.reg vF).toNat = 2 * ((s.reg vF).toNat / 128)))

/-- 41_register_alu.md section 6 (`Cxkk`): `kk` AND the random byte of the step, whatever that byte is (it is free, D17). -/
def Obligations.RandomIsMasked : Prop :=
  ∀ (x : Reg) (kk : Byte) (s : State), decodeWord (wordXkk 0xC x kk) = .ok (.rnd x kk) ∧
    ∃ t, exec (.rnd x kk) s = .next t ∧ (∀ k, (t.reg x).getLsbD k = (kk.getLsbD k && s.rnd.getLsbD k)) ∧
      KeepsAllBut (· = x) [] s t

/-! ### Index register and memory (spec/42_index_memory.md) -/

/-- R140. -/
def Obligations.LoadIndex : Prop :=
  ∀ (nnn : Addr) (s : State), decodeWord (wordAddr 0xA nnn) = .ok (.ldI nnn) ∧
    ∃ t, exec (.ldI nnn) s = .next t ∧ t.i.toNat = nnn.toNat ∧ KeepsAllBut noReg [.index] s t

/-- 42_index_memory.md section 1 (`Fx1E`): mod 65536, not reduced to 12 bits (D10), `VF` unchanged (D11). -/
def Obligations.AddToIndexWrapsAt65536 : Prop :=
  ∀ (x : Reg) (s : State), decodeWord (wordXkk 0xF x 0x1E) = .ok (.addI x) ∧
    ∃ t, exec (.addI x) s = .next t ∧ t.i.toNat = (s.i.toNat + (s.reg x).toNat) % 65536 ∧
      KeepsAllBut noReg [.index] s t

/-- 42_index_memory.md section 1 (`Fx29`): five times the whole byte (D12). -/
def Obligations.GlyphAddressIsFiveTimes : Prop :=
  ∀ (x : Reg) (s : State), decodeWord (wordXkk 0xF x 0x29) = .ok (.ldF x) ∧
    ∃ t, exec (.ldF x) s = .next t ∧ t.i.toNat = 5 * (s.reg x).toNat ∧ KeepsAllBut noReg [.index] s t

/-- 42_index_memory.md section 2 (`Fx33`): the three digits, in range; every other byte as before. The premise that memory is
canonical is part of the invariant (`State.Inv`). -/
def Obligations.StoreDecimalDigits : Prop :=
  ∀ (x : Reg) (s : State), decodeWord (wordXkk 0xF x 0x33) = .ok (.ldB x) ∧
    (s.mem.wf = true → s.indexAddr + 2 ≤ 0xFFF → ∃ t, exec (.ldB x) s = .next t ∧
      (t.mem.read s.indexAddr).toNat = (s.reg x).toNat / 100 ∧
      (t.mem.read (s.indexAddr + 1)).toNat = (s.reg x).toNat / 10 % 10 ∧
      (t.mem.read (s.indexAddr + 2)).toNat = (s.reg x).toNat % 10 ∧
      (∀ a, a < s.indexAddr ∨ s.indexAddr + 2 < a → t.mem.read a = s.mem.read a) ∧
      KeepsAllBut noReg [.memory] s t)

/-- 42_index_memory.md section 2 (`Fx55`): `V[0]` to `V[x]` inclusive, in range; every other byte and `I` as before. -/
def Obligations.StoreRegisterRange : Prop :=
  ∀ (x : Reg) (s : State), decodeWord (wordXkk 0xF x 0x55) = .ok (.stRegs x) ∧
    (s.mem.wf = true → s.indexAddr + x.toNat ≤ 0xFFF → ∃ t, exec (.stRegs x) s = .next t ∧
      (∀ k : Reg, k.toNat ≤ x.toNat → t.mem.read (s.indexAddr + k.toNat) = s.reg k) ∧
      (∀ a, a < s.indexAddr ∨ s.indexAddr + x.toNat < a → t.mem.read a = s.mem.read a) ∧
      KeepsAllBut noReg [.memory] s t)

/-- 42_index_memory.md section 2 (`Fx65`): `V[0]` to `V[x]` inclusive, in range; the registers above, `I` and memory as
before. -/
def Obligations.LoadRegisterRange : Prop :=
  ∀ (x : Reg) (s : State), decodeWord (wordXkk 0xF x 0x65) = .ok (.ldRegs x) ∧
    (s.indexAddr + x.toNat ≤ 0xFFF → ∃ t, exec (.ldRegs x) s = .next t ∧
      (∀ k : Reg, k.toNat ≤ x.toNat → t.reg k = s.mem.read (s.indexAddr + k.toNat)) ∧
      KeepsAllBut (fun r => r.toNat ≤ x.toNat) [] s t)

/-- 42_index_memory.md section 2 and 60_exceptions.md section 2: a range that leaves memory raises `OutOfBoundsDataAccess`
(a name and a treatment the spec decided, D13), with no byte stored, no register loaded and `PC` as advanced (D33). -/
def Obligations.OutOfRangeDataAccessRaises : Prop :=
  ∀ (x : Reg) (s : State),
    (s.indexAddr + 2 > 0xFFF → ∃ t, exec (.ldB x) s = .next t ∧ t.run = .faulted .outOfBoundsDataAccess ∧
      t.outcome = .fatal .outOfBoundsDataAccess ∧ KeepsAllBut noReg [.run, .outcome] s t) ∧
    (s.indexAddr + x.toNat > 0xFFF →
      (∃ t, exec (.stRegs x) s = .next t ∧ t.run = .faulted .outOfBoundsDataAccess ∧
        t.outcome = .fatal .outOfBoundsDataAccess ∧ KeepsAllBut noReg [.run, .outcome] s t) ∧
      (∃ t, exec (.ldRegs x) s = .next t ∧ t.run = .faulted .outOfBoundsDataAccess ∧
        t.outcome = .fatal .outOfBoundsDataAccess ∧ KeepsAllBut noReg [.run, .outcome] s t))

/-- 95_test_vectors.md S10: registers stored by `Fx55` and loaded by `Fx65` into ANY register file, with the same `I`, are the
original values. -/
def Obligations.StoredRegistersLoadBack : Prop :=
  ∀ (x : Reg) (s : State) (fresh : Vector Byte 16), s.mem.wf = true → s.indexAddr + x.toNat ≤ 0xFFF →
    ∃ t u, exec (.stRegs x) s = .next t ∧ exec (.ldRegs x) { t with v := fresh } = .next u ∧
      ∀ k : Reg, k.toNat ≤ x.toNat → u.reg k = s.reg k

/-- 20_memory.md section 7: a store is seen by the very next fetch. An `Fx55` over the two bytes at `PC` changes what is
fetched there to `V[0] ++ V[1]`. -/
def Obligations.StoreIsSeenByTheNextFetch : Prop :=
  ∀ (x : Reg) (s : State), s.mem.wf = true → s.i = s.pc → 1 ≤ x.toNat → s.indexAddr + x.toNat ≤ 0xFFF →
    ∃ t, exec (.stRegs x) s = .next t ∧ t.fetch = some (wordOfBytes (s.reg 0) (s.reg 1))

/-! ### Display (spec/43_display.md) -/

/-- R165: every cell is off afterwards. -/
def Obligations.ClearTurnsEveryCellOff : Prop :=
  ∀ s : State, decodeWord 0x00E0 = .ok .cls ∧
    ∃ t, exec .cls s = .next t ∧ (∀ cx cy, fbGet t.fb cx cy = false) ∧ KeepsAllBut noReg [.screen] s t

/-- 43_display.md section 3 (`Dxyn`): every cell of the screen is XORed with the sprite's picture; no wrap (D15). `VF` is the
complement of the last pixel, out of range or not (D16), and stays as it was with no rows. The bound is D14's. -/
def Obligations.DrawXorsTheSprite : Prop :=
  ∀ (x y : Reg) (n : Nibble) (s : State), decodeWord (wordXyn 0xD x y n) = .ok (.drw x y n) ∧
    (s.indexAddr + n.toNat ≤ 4096 → ∃ t, exec (.drw x y n) s = .next t ∧
      (∀ cx cy, cx ≤ 63 → cy ≤ 31 → fbGet t.fb cx cy = (fbGet s.fb cx cy ^^ s.spriteBit x y n.toNat cx cy)) ∧
      (0 < n.toNat → t.reg vF =
        (if (fbGet s.fb ((s.reg x).toNat + 7) ((s.reg y).toNat + n.toNat - 1) ^^
          (s.mem.read (s.indexAddr + n.toNat - 1)).getLsbD 0) then 0 else 1)) ∧
      (n.toNat = 0 → t.reg vF = s.reg vF) ∧
      KeepsAllBut (· = vF) [.screen] s t)

/-- 43_display.md section 3 and 60_exceptions.md section 2: a sprite that leaves memory (D14) raises `OutOfBoundsSpriteRead`
before any pixel, with `PC` as advanced (D33). -/
def Obligations.OutOfRangeSpriteRaises : Prop :=
  ∀ (x y : Reg) (n : Nibble) (s : State), s.indexAddr + n.toNat > 4096 →
    ∃ t, exec (.drw x y n) s = .next t ∧ t.run = .faulted .outOfBoundsSpriteRead ∧
      t.outcome = .fatal .outOfBoundsSpriteRead ∧ KeepsAllBut noReg [.run, .outcome] s t

/-- 43_display.md section 3: drawing the same sprite twice at the same place restores the screen. `x` and `y` are not `VF`,
which the first draw writes. -/
def Obligations.DrawingTwiceRestoresTheScreen : Prop :=
  ∀ (x y : Reg) (n : Nibble) (s : State), s.indexAddr + n.toNat ≤ 4096 → x ≠ vF → y ≠ vF →
    ∃ t u, exec (.drw x y n) s = .next t ∧ exec (.drw x y n) t = .next u ∧ Part.screen.kept s u

/-- 43_display.md section 2 (`Snapshot`) and 20_memory.md section 8 (`DumpMemory`): the copies hold every cell and every byte
at its index, in every run state (D21), and nothing changes. -/
def Obligations.SnapshotAndDumpShowTheState : Prop :=
  ∀ s : State, s.perform .snapshot = .next s ∧ s.perform .dumpMemory = .next s ∧
    Operation.response .snapshot s = .pixels s.snapshot ∧ s.snapshot.length = 2048 ∧
    (∀ cx cy, cx ≤ 63 → cy ≤ 31 → s.snapshot[cy * 64 + cx]? = some (fbGet s.fb cx cy)) ∧
    Operation.response .dumpMemory s = .bytes s.dumpMemory ∧ s.dumpMemory.length = 4096 ∧
    (∀ a, a ≤ 0xFFF → s.dumpMemory[a]? = some (s.mem.read a))

/-! ### Keys and timers (spec/44_keys_timers.md) -/

/-- 44_keys_timers.md section 2 (`Ex9E`, `ExA1`): the skip is taken when key `V[x]` is down, or not down; a number above 15
is never down (D18). -/
def Obligations.KeySkips : Prop :=
  ∀ (x : Reg) (s : State),
    decodeWord (wordXkk 0xE x 0x9E) = .ok (.skp x) ∧ decodeWord (wordXkk 0xE x 0xA1) = .ok (.sknp x) ∧
    ∃ t u, exec (.skp x) s = .next t ∧ KeepsAllBut noReg [.pc] s t ∧
      exec (.sknp x) s = .next u ∧ KeepsAllBut noReg [.pc] s u ∧
      ((∃ h : (s.reg x).toNat < 16, s.keys[(s.reg x).toNat] = true) → t.pc = s.pc + 2 ∧ u.pc = s.pc) ∧
      ((¬ ∃ h : (s.reg x).toNat < 16, s.keys[(s.reg x).toNat] = true) → t.pc = s.pc ∧ u.pc = s.pc + 2)

/-- 44_keys_timers.md section 3 (`Fx0A`, the step that fetched it): the least key down is delivered at once (D19); with no
key down the run state becomes `AWAITING_KEY(x)` and the outcome `AwaitingInput`, `PC` as advanced (D29). -/
def Obligations.WaitForKeyDeliversOrWaits : Prop :=
  ∀ (x : Reg) (s : State), decodeWord (wordXkk 0xF x 0x0A) = .ok (.ldVxK x) ∧
    (∀ k : Fin 16, s.keys[k] = true → (∀ j : Fin 16, j < k → s.keys[j] = false) →
      ∃ t, exec (.ldVxK x) s = .next t ∧ (t.reg x).toNat = k.val ∧ KeepsAllBut (· = x) [] s t) ∧
    ((∀ k : Fin 16, s.keys[k] = false) →
      ∃ t, exec (.ldVxK x) s = .next t ∧ t.run = .awaitingKey x ∧ t.outcome = .awaitingInput ∧
        KeepsAllBut noReg [.run, .outcome] s t)

/-- 44_keys_timers.md section 3 (`Fx0A`, the waiting steps): nothing is fetched and `PC` stays; the least key down ends the
wait (D19), none continues it. -/
def Obligations.WaitingStepDeliversOrWaits : Prop :=
  ∀ (x : Reg) (s : State) (keys : Config.Keys) (b : Byte), s.run = .awaitingKey x →
    (∀ k : Fin 16, keys[k] = true → (∀ j : Fin 16, j < k → keys[j] = false) →
      ∃ t, s.stepWith keys b = .next t ∧ (t.reg x).toNat = k.val ∧ t.run = .ready ∧ t.outcome = .done ∧
        KeepsAllBut (· = x) [.run, .outcome, .inputs] s t) ∧
    ((∀ k : Fin 16, keys[k] = false) →
      ∃ t, s.stepWith keys b = .next t ∧ t.outcome = .awaitingInput ∧ KeepsAllBut noReg [.outcome, .inputs] s t)

/-- R184. -/
def Obligations.ReadDelayTimer : Prop :=
  ∀ (x : Reg) (s : State), decodeWord (wordXkk 0xF x 0x07) = .ok (.ldVxDt x) ∧
    ∃ t, exec (.ldVxDt x) s = .next t ∧ t.reg x = s.dt ∧ KeepsAllBut (· = x) [] s t

/-- 44_keys_timers.md section 4 (`Fx15`, `Fx18`). That no instruction reads `ST` is `TimersAreReadOnlyWhereNamed`. -/
def Obligations.SetTimers : Prop :=
  ∀ (x : Reg) (s : State),
    (decodeWord (wordXkk 0xF x 0x15) = .ok (.ldDtVx x) ∧
      ∃ t, exec (.ldDtVx x) s = .next t ∧ t.dt = s.reg x ∧ KeepsAllBut noReg [.delay] s t) ∧
    (decodeWord (wordXkk 0xF x 0x18) = .ok (.ldStVx x) ∧
      ∃ t, exec (.ldStVx x) s = .next t ∧ t.st = s.reg x ∧ KeepsAllBut noReg [.sound] s t)

/-- 44_keys_timers.md section 5 (`Tick`): both timers count down by one and stop at zero (D20), in any run state; and `n`
ticks count down by `n`. -/
def Obligations.TickCountsBothTimersDown : Prop :=
  ∀ (s : State) (n : Nat),
    (∃ t, s.perform .tick = .next t ∧ t.dt.toNat = s.dt.toNat - 1 ∧ t.st.toNat = s.st.toNat - 1 ∧
      KeepsAllBut noReg [.delay, .sound] s t) ∧
    s.tickTimes n = State.tick^[n] s ∧
    (s.tickTimes n).dt.toNat = s.dt.toNat - n ∧ (s.tickTimes n).st.toNat = s.st.toNat - n

/-! ### The step (spec/60_exceptions.md) -/

/-- R200, R202, R204: a step runs the decoded instruction. In `READY`, when the two bytes at `PC` decode to `i`, the step is
the execute phase of `i` from the state after the pending ticks, with the step's inputs in place, the outcome set to `Done` and
`PC` advanced by 2; after it the inputs of the next step are drawn (log 2, 3). -/
def Obligations.StepRunsTheDecodedInstruction : Prop :=
  ∀ (s : State) (i : Instr), s.run = .ready → s.pc.toNat + 1 ≤ 0xFFF →
    decodeWord (wordOfBytes (s.mem.read s.pc.toNat) (s.mem.read (s.pc.toNat + 1))) = .ok i →
    step s = Result.andThen (exec i ((s.tickTimes s.ticks).withInputs s.keys s.rnd).advance) State.drawInputs ∧
    ((s.tickTimes s.ticks).withInputs s.keys s.rnd).advance.pc = s.pc + 2 ∧
    ((s.tickTimes s.ticks).withInputs s.keys s.rnd).advance.outcome = .done

/-- 60_exceptions.md section 5: the host's step is the environment's ticks, one after the other, and then the operation `Step`
with the inputs that stand in the state; after it the next inputs are drawn (the model's choice, log 2 and 3). -/
def Obligations.StepIsTicksThenStepOperation : Prop :=
  ∀ s : State, step s = Result.andThen ((State.tick^[s.ticks] s).perform (.step s.keys s.rnd)) State.drawInputs

/-- R66: a word that matches no row of the opcode map is a no-op: `PC + 2`, outcome `Done`, nothing else. -/
def Obligations.UnrecognizedWordIsNoOp : Prop :=
  ∀ (s : State) (keys : Config.Keys) (b : Byte) (op : Word), s.run = .ready → s.fetch = some op →
    (∀ r ∈ opcodeTable, op &&& r.mask ≠ r.pattern) →
    ∃ t, s.stepWith keys b = .next t ∧ t.pc = s.pc + 2 ∧ t.outcome = .done ∧ KeepsAllBut noReg [.pc, .outcome, .inputs] s t

/-- R203: the fetch is of `PC` and `PC + 1`, big-endian, whatever the parity of `PC`; when `PC + 1` lies outside memory the
step is fatal and nothing changes but the run state (and the step's outcome and inputs). -/
def Obligations.FetchReadsTwoBytesOrIsFatal : Prop :=
  ∀ (s : State) (keys : Config.Keys) (b : Byte),
    (s.pc.toNat + 1 ≤ 0xFFF → ∃ op, s.fetch = some op ∧
      op.toNat = 256 * (s.mem.read s.pc.toNat).toNat + (s.mem.read (s.pc.toNat + 1)).toNat) ∧
    (s.run = .ready → s.pc.toNat + 1 > 0xFFF → ∃ t, s.stepWith keys b = .next t ∧
      t.run = .faulted .outOfBoundsFetch ∧ t.outcome = .fatal .outOfBoundsFetch ∧
      KeepsAllBut noReg [.run, .outcome, .inputs] s t)

/-- 60_exceptions.md section 2 (R213, the spec's decision D21): a step in `FAULTED(K)` changes nothing and returns
`Fatal(K)`. -/
def Obligations.FaultedStepIsInert : Prop :=
  ∀ (s : State) (k : FatalKind) (keys : Config.Keys) (b : Byte), s.run = .faulted k →
    ∃ t, s.stepWith keys b = .next t ∧ t.outcome = .fatal k ∧ KeepsAllBut noReg [.outcome, .inputs] s t

/-- 60_exceptions.md section 2 (R206, D21): no number of steps leaves `FAULTED(K)`; only the timers go on counting. -/
def Obligations.FaultIsNeverLeftBySteps : Prop :=
  ∀ (n : Nat) (s : State) (k : FatalKind), s.run = .faulted k →
    ∃ t : State, Host.Core.run Sys2Proof.core n s = .next t ∧ t.run = .faulted k ∧
      KeepsAllBut noReg [.delay, .sound, .outcome, .inputs] s t

/-- 60_exceptions.md section 1 (the table of R201; a `FAULTED` run state is the spec's decision D21): the outcome a step hands
out and the run state it leaves agree, from every state. -/
def Obligations.OutcomeAgreesWithRunState : Prop :=
  ∀ (s t : State) (keys : Config.Keys) (b : Byte), s.stepWith keys b = .next t → t.outcomeAgrees

/-- 60_exceptions.md section 2 (R207, D33): a fatal error of the execute phase is precise: nothing but the run state and the
outcome is other than it was, and only `Dxyn` raises `OutOfBoundsSpriteRead`, only `Fx33`, `Fx55`, `Fx65` raise
`OutOfBoundsDataAccess`, none raises `OutOfBoundsFetch` (R205). -/
def Obligations.FatalErrorsArePrecise : Prop :=
  ∀ (i : Instr) (s t : State) (k : FatalKind), s.run = .ready → exec i s = .next t → t.run = .faulted k →
    KeepsAllBut noReg [.run, .outcome] s t ∧ t.outcome = .fatal k ∧
    (match k with
      | .outOfBoundsFetch      => False
      | .outOfBoundsSpriteRead => ∃ x y n, i = .drw x y n
      | .outOfBoundsDataAccess => ∃ x, i = .ldB x ∨ i = .stRegs x ∨ i = .ldRegs x)

/-- 60_exceptions.md section 5 (R219, D36): parked at a jump to itself, every further step completes and leaves all but the
timers as it was. -/
def Obligations.ParkedStaysParked : Prop :=
  ∀ (s : State) (a : Addr), s.parked a →
    ∃ t, step s = .next t ∧ t.parked a ∧ t.outcome = .done ∧
      KeepsAllBut noReg [.delay, .sound, .outcome, .inputs] s t

/-! ### Boot and reset (spec/70_reset_and_hazards.md) -/

/-- 70_reset_and_hazards.md section 1 (`Boot`; zero registers and memory D1, D2, display off D4, run state D31, cut D6): for
every font and every image, from every state. -/
def Obligations.BootSetsEveryPiece : Prop :=
  ∀ (s : State) (font : Config.Font) (image : List Byte),
    ∃ t, s.perform (.boot font image) = .next t ∧
      (∀ r, t.reg r = 0) ∧ t.i = 0 ∧ t.pc = 0x200 ∧ t.sp = 0 ∧ t.dt = 0 ∧ t.st = 0 ∧ t.run = .ready ∧
      (∀ cx cy, fbGet t.fb cx cy = false) ∧
      (∀ k : Fin 80, t.mem.read k.val = font[k]) ∧
      (∀ a, 80 ≤ a → a < 0x200 → t.mem.read a = 0) ∧
      (∀ (k : Nat) (h : k < image.length), k < 3584 → t.mem.read (0x200 + k) = image[k]) ∧
      (∀ k, image.length ≤ k → k < 3584 → t.mem.read (0x200 + k) = 0)

/-- 10_state.md section 8 (`Reset`; zero registers D1, font zeroed too D5, display off D4, run state D31): from every state,
and of `State.reset`. -/
def Obligations.ResetSetsEveryPiece : Prop :=
  ∀ s : State, ∃ t, s.perform .reset = .next t ∧
    (∀ u, u = t ∨ u = State.reset →
      (∀ r, u.reg r = 0) ∧ u.i = 0 ∧ u.pc = 0x200 ∧ u.sp = 0 ∧ u.dt = 0 ∧ u.st = 0 ∧ u.run = .ready ∧
      (∀ cx cy, fbGet u.fb cx cy = false) ∧ (∀ a, u.mem.read a = 0))

/-- 30_encoding.md section 3 and 60_exceptions.md section 1: in `READY`, with every byte from `PC` to 0xFFF zero, every step as
far as words can be fetched is a no-op, `PC + 2` each, while the timers go on counting, and the next step is
`Fatal(OutOfBoundsFetch)` with `PC` where it stands. And 70_reset_and_hazards.md section 2: after `Reset()`, where every byte of
memory is zero, come 1792 no-op steps, fetched at 0x200, 0x202, up to 0xFFE, and then a step with `Fatal(OutOfBoundsFetch)` and
`PC = 0x1000`. -/
def Obligations.ResetRunsOffTheEndOfMemory : Prop :=
  (∀ (n : Nat) (s : State), s.run = .ready → (∀ a, s.pc.toNat ≤ a → a ≤ 0xFFF → s.mem.read a = 0) →
    s.pc.toNat + 2 * n ≤ 0x1000 →
    (∃ t : State, Host.Core.run Sys2Proof.core n s = .next t ∧ t.run = .ready ∧ (0 < n → t.outcome = .done) ∧
      t.pc.toNat = s.pc.toNat + 2 * n ∧ KeepsAllBut noReg [.pc, .delay, .sound, .outcome, .inputs] s t) ∧
    (0xFFF ≤ s.pc.toNat + 2 * n → ∃ t : State, Host.Core.run Sys2Proof.core (n + 1) s = .next t ∧
      t.run = .faulted .outOfBoundsFetch ∧ t.outcome = .fatal .outOfBoundsFetch ∧ t.pc.toNat = s.pc.toNat + 2 * n ∧
      KeepsAllBut noReg [.pc, .delay, .sound, .run, .outcome, .inputs] s t)) ∧
  (∀ a, State.reset.mem.read a = 0) ∧
  (∀ n, n ≤ 1792 → ∃ t : State, Host.Core.run Sys2Proof.core n State.reset = .next t ∧ t.run = .ready ∧
    (0 < n → t.outcome = .done) ∧ t.pc.toNat = 0x200 + 2 * n ∧
    KeepsAllBut noReg [.pc, .outcome, .inputs] State.reset t) ∧
  ∃ t : State, Host.Core.run Sys2Proof.core 1793 State.reset = .next t ∧ t.run = .faulted .outOfBoundsFetch ∧
    t.outcome = .fatal .outOfBoundsFetch ∧ t.pc.toNat = 0x1000

/-! ### Invariants and whole-machine rules -/

/-- The invariant at reset. -/
def Obligations.InvariantAtReset : Prop := State.reset.Inv

/-- The invariant after every boot, of any font and any image, from any state. -/
def Obligations.InvariantAfterBoot : Prop :=
  ∀ (s : State) (font : Config.Font) (image : List Byte), (s.boot font image).Inv

/-- 10_state.md sections 2 and 4 (R14, R17) and 20_memory.md: every step keeps the invariant: memory canonical, `SP` at most
16, `PC` at most 0x10FE, live return addresses at most 0x1000. -/
def Obligations.StepKeepsTheInvariant : Prop :=
  ∀ s t : State, s.Inv → step s = .next t → t.Inv

/-- 93_implementation_defined.md Part 1: nothing is stuck. From a state of the invariant every operation of the environment,
whatever its inputs, answers a next state, of the invariant again: no step faults or is refused. -/
def Obligations.EveryOperationCompletes : Prop :=
  ∀ (s : State) (o : Operation), s.Inv → ∃ t, s.perform o = .next t ∧ t.Inv

/-- 70_reset_and_hazards.md section 2 (R233) and 93_implementation_defined.md Part 1 (U19): a run of the block starts with `Boot`.
Every such run, whatever operations follow, with whatever inputs, completes in a state of the invariant; a run whose first
operation is another one is refused, under the model's name for it (log 12). And every run `Boot(image)`, `Reset()` comes to
`State.reset`, all of it: that it does so in the dead stack slots (log 6) and in the model's own fields, the inputs, the ticks,
the outcome and the draw counter (log 2, 3, 4), is the MODEL's choice and no rule of the spec. -/
def Obligations.RunsStartWithBootAndComplete : Prop :=
  (∀ (font : Config.Font) (image : List Byte) (ops : List Operation),
    ∃ t, runOperations (.boot font image :: ops) = .next t ∧ t.Inv) ∧
  (∀ (o : Operation) (ops : List Operation), (∀ font image, o ≠ .boot font image) →
    runOperations (o :: ops) = .refused .notBooted) ∧
  (∀ (font : Config.Font) (image : List Byte), runOperations [.boot font image, .reset] = .next State.reset)

/-- 10_state.md section 10 (the access table R28): no instruction writes a register or a part of the state that its row does not
mark: in particular only `2nnn` and `00EE` touch the stack, only `Fx33` and `Fx55` memory, only `00E0` and `Dxyn` the screen,
only `Fx15` `DT`, only `Fx18` `ST`, and only the instructions of R15 `VF` as a side effect. -/
def Obligations.AccessTableBoundsTheWrites : Prop :=
  ∀ (i : Instr) (s t : State), exec i s = .next t → KeepsAllBut (writesReg i) (writesPart i) s t

/-- 10_state.md sections 9 and 10 (R28, column "inputs"): only `Cxkk` reads the random byte, and only `Ex9E`, `ExA1`, `Fx0A` the
key state: with another input, any other instruction does the same. -/
def Obligations.InputsAreReadOnlyWhereNamed : Prop :=
  ∀ (i : Instr) (s : State) (b : Byte) (keys : Config.Keys),
    ((∀ x kk, i ≠ .rnd x kk) →
      exec i { s with rnd := b } = Result.andThen (exec i s) (fun t => { t with rnd := b })) ∧
    ((∀ x, i ≠ .skp x ∧ i ≠ .sknp x ∧ i ≠ .ldVxK x) →
      exec i { s with keys := keys } = Result.andThen (exec i s) (fun t => { t with keys := keys }))

/-- 10_state.md section 4 (R18, R19) and section 10: no instruction reads `ST`, and only `Fx07` reads `DT`. An
instruction that does not write the timer hands a changed one on; `Fx18` and `Fx15` overwrite it whatever it was. -/
def Obligations.TimersAreReadOnlyWhereNamed : Prop :=
  ∀ (i : Instr) (s : State) (b : Byte),
    ((∀ x, i ≠ .ldStVx x) → exec i { s with st := b } = Result.andThen (exec i s) (fun t => { t with st := b })) ∧
    ((∀ x, i ≠ .ldVxDt x ∧ i ≠ .ldDtVx x) →
      exec i { s with dt := b } = Result.andThen (exec i s) (fun t => { t with dt := b })) ∧
    (∀ x, exec (.ldStVx x) { s with st := b } = exec (.ldStVx x) s) ∧
    (∀ x, exec (.ldDtVx x) { s with dt := b } = exec (.ldDtVx x) s)
end

