-- ==== Sys2Proof/Laws/Decode.lean ====
section
/-! SUPPORT. The encoded word of each format as a number, and its fields: what the decoder reads back (spec/30_encoding.md
R61, R62). -/

namespace Sys2Proof

/-! ### The formats as numbers -/

/-- A concatenation as a number. -/
theorem toNat_append_eq {m n : Nat} (a : BitVec m) (b : BitVec n) : (a ++ b).toNat = a.toNat * 2 ^ n + b.toNat := by
  rw [BitVec.toNat_append, ← Nat.shiftLeft_add_eq_or_of_lt b.isLt, Nat.shiftLeft_eq]

theorem wordXkk_toNat (c : Nibble) (x : Reg) (kk : Byte) :
    (wordXkk c x kk).toNat = c.toNat * 4096 + x.toNat * 256 + kk.toNat := by
  unfold wordXkk
  rw [toNat_append_eq (c ++ x) kk, toNat_append_eq c x]; omega

theorem wordAddr_toNat (c : Nibble) (nnn : Addr) : (wordAddr c nnn).toNat = c.toNat * 4096 + nnn.toNat :=
  toNat_append_eq c nnn

theorem wordXyn_toNat (c : Nibble) (x y : Reg) (n : Nibble) :
    (wordXyn c x y n).toNat = c.toNat * 4096 + x.toNat * 256 + y.toNat * 16 + n.toNat := by
  unfold wordXyn
  rw [toNat_append_eq (c ++ x ++ y) n, toNat_append_eq (c ++ x) y, toNat_append_eq c x]; omega

/-- The fetched word as a number: the byte at the lower address is the high one (R41). -/
theorem wordOfBytes_toNat (hi lo : Byte) : (wordOfBytes hi lo).toNat = hi.toNat * 256 + lo.toNat :=
  toNat_append_eq hi lo

/-! ### The formats and bitwise AND, field by field -/

theorem append_and_append {m n : Nat} (a a' : BitVec m) (b b' : BitVec n) :
    (a ++ b) &&& (a' ++ b') = (a &&& a') ++ (b &&& b') := by
  ext k hk
  simp only [BitVec.getElem_and, BitVec.getElem_append]
  split <;> simp

theorem wordXkk_and (c c' : Nibble) (x x' : Reg) (kk kk' : Byte) :
    wordXkk c x kk &&& wordXkk c' x' kk' = wordXkk (c &&& c') (x &&& x') (kk &&& kk') := by
  unfold wordXkk
  exact (append_and_append (c ++ x) (c' ++ x') kk kk').trans (by rw [append_and_append])

theorem wordAddr_and (c c' : Nibble) (nnn nnn' : Addr) :
    wordAddr c nnn &&& wordAddr c' nnn' = wordAddr (c &&& c') (nnn &&& nnn') :=
  append_and_append c c' nnn nnn'

theorem wordXyn_and (c c' : Nibble) (x x' y y' : Reg) (n n' : Nibble) :
    wordXyn c x y n &&& wordXyn c' x' y' n' = wordXyn (c &&& c') (x &&& x') (y &&& y') (n &&& n') := by
  unfold wordXyn
  exact (append_and_append (c ++ x ++ y) (c' ++ x' ++ y') n n').trans (by rw [append_and_append, append_and_append])

/-! ### The fields as numbers -/

theorem fieldC_toNat (op : Word) : (fieldC op).toNat = op.toNat / 4096 := by
  have := op.isLt
  simp only [fieldC, BitVec.extractLsb'_toNat, Nat.shiftRight_eq_div_pow]; omega

theorem fieldX_toNat (op : Word) : (fieldX op).toNat = op.toNat / 256 % 16 := by
  simp only [fieldX, BitVec.extractLsb'_toNat, Nat.shiftRight_eq_div_pow]

theorem fieldY_toNat (op : Word) : (fieldY op).toNat = op.toNat / 16 % 16 := by
  simp only [fieldY, BitVec.extractLsb'_toNat, Nat.shiftRight_eq_div_pow]

theorem fieldN_toNat (op : Word) : (fieldN op).toNat = op.toNat % 16 := by
  simp [fieldN, BitVec.extractLsb'_toNat]

theorem fieldKk_toNat (op : Word) : (fieldKk op).toNat = op.toNat % 256 := by
  simp [fieldKk, BitVec.extractLsb'_toNat]

theorem fieldNnn_toNat (op : Word) : (fieldNnn op).toNat = op.toNat % 4096 := by
  simp only [fieldNnn, BitVec.extractLsb'_toNat, Nat.shiftRight_eq_div_pow]; omega

/-! ### The fields of an encoded word -/

@[simp] theorem fieldC_wordXkk (c : Nibble) (x : Reg) (kk : Byte) : fieldC (wordXkk c x kk) = c := by
  apply BitVec.eq_of_toNat_eq; rw [fieldC_toNat, wordXkk_toNat]; omega

@[simp] theorem fieldX_wordXkk (c : Nibble) (x : Reg) (kk : Byte) : fieldX (wordXkk c x kk) = x := by
  apply BitVec.eq_of_toNat_eq; rw [fieldX_toNat, wordXkk_toNat]; omega

@[simp] theorem fieldKk_wordXkk (c : Nibble) (x : Reg) (kk : Byte) : fieldKk (wordXkk c x kk) = kk := by
  apply BitVec.eq_of_toNat_eq; rw [fieldKk_toNat, wordXkk_toNat]; omega

@[simp] theorem fieldC_wordAddr (c : Nibble) (nnn : Addr) : fieldC (wordAddr c nnn) = c := by
  apply BitVec.eq_of_toNat_eq; rw [fieldC_toNat, wordAddr_toNat]; omega

@[simp] theorem fieldNnn_wordAddr (c : Nibble) (nnn : Addr) : fieldNnn (wordAddr c nnn) = nnn := by
  apply BitVec.eq_of_toNat_eq; rw [fieldNnn_toNat, wordAddr_toNat]; omega

@[simp] theorem fieldC_wordXyn (c : Nibble) (x y : Reg) (n : Nibble) : fieldC (wordXyn c x y n) = c := by
  apply BitVec.eq_of_toNat_eq; rw [fieldC_toNat, wordXyn_toNat]; omega

@[simp] theorem fieldX_wordXyn (c : Nibble) (x y : Reg) (n : Nibble) : fieldX (wordXyn c x y n) = x := by
  apply BitVec.eq_of_toNat_eq; rw [fieldX_toNat, wordXyn_toNat]; omega

@[simp] theorem fieldY_wordXyn (c : Nibble) (x y : Reg) (n : Nibble) : fieldY (wordXyn c x y n) = y := by
  apply BitVec.eq_of_toNat_eq; rw [fieldY_toNat, wordXyn_toNat]; omega

@[simp] theorem fieldN_wordXyn (c : Nibble) (x y : Reg) (n : Nibble) : fieldN (wordXyn c x y n) = n := by
  apply BitVec.eq_of_toNat_eq; rw [fieldN_toNat, wordXyn_toNat]; omega

/-! ### The bytes of a word -/

/-- The two bytes of a word, in memory order, give the word back. -/
@[simp] theorem wordOfBytes_highByte_lowByte (op : Word) : wordOfBytes (highByte op) (lowByte op) = op := by
  apply BitVec.eq_of_toNat_eq
  have := op.isLt
  rw [wordOfBytes_toNat]
  simp only [highByte, lowByte, BitVec.extractLsb'_toNat, Nat.shiftRight_eq_div_pow]; omega

/-- Decoding two bytes is decoding their word (R41, R60). -/
theorem decode_two_bytes (hi lo : Byte) (rest : List Byte) (i : Instr) (h : decodeWord (wordOfBytes hi lo) = .ok i) :
    decode (hi :: lo :: rest) = .ok (i, rest) := by
  simp [decode, h]

end Sys2Proof
end

