-- ==== Sys2Proof/Laws/Memory.lean ====
section
/-! SUPPORT. The laws of memory: a read after a write, the canonical form kept by every operation, and equal reads being
equal memories. -/

namespace Sys2Proof.Machine

/-! ### Reading -/

@[simp] theorem Memory.read_nil (a : Nat) : Memory.read [] a = 0 := rfl

/-- An address below every listed one reads as unlisted. -/
theorem Memory.read_of_all_lt (m : Memory) (a : Nat) (h : ∀ c ∈ m, a < c.1) : m.read a = unlistedByte := by
  induction m with
  | nil => rfl
  | cons c rest ih =>
    have hc := h c (by simp)
    rw [Memory.read, if_neg (by omega)]
    exact ih fun d hd => h d (by simp [hd])

/-- The cells of a canonical memory, unfolded once. -/
theorem Memory.wf_cons (c : Host.Cell) (rest : Memory) :
    Memory.wf (c :: rest) = true ↔
      c.1 < Config.memSize ∧ c.2 ≠ unlistedByte ∧ (∀ d ∈ rest, c.1 < d.1) ∧ Memory.wf rest = true := by
  simp [Memory.wf, and_assoc]

/-- Every address a canonical memory lists is one of the space. -/
theorem Memory.lt_of_wf (m : Memory) (hm : m.wf = true) : ∀ c ∈ m, c.1 < Config.memSize := by
  induction m with
  | nil => simp
  | cons c rest ih =>
    obtain ⟨hc, -, -, hr⟩ := (Memory.wf_cons c rest).1 hm
    simpa [hc] using ih hr

/-! ### Writing -/

/-- What reads after a `put` in a canonical memory. -/
theorem Memory.read_put (m : Memory) (hm : m.wf = true) (a : Nat) (b : Byte) (a' : Nat) :
    (m.put a b).read a' = if a' = a then b else m.read a' := by
  induction m with
  | nil =>
    unfold Memory.put
    by_cases e : a' = a
    · subst e; split <;> simp [Memory.read, *]
    · split <;> simp [Memory.read, Ne.symm e]
  | cons c rest ih =>
    obtain ⟨-, -, hlt, hr⟩ := (Memory.wf_cons c rest).1 hm
    specialize ih hr
    unfold Memory.put
    split
    · rename_i h
      have below : a' = a → Memory.read (c :: rest) a' = unlistedByte := by
        rintro rfl
        refine Memory.read_of_all_lt _ _ fun d hd => ?_
        rcases List.mem_cons.1 hd with rfl | hd
        · exact h
        · exact h.trans (hlt d hd)
      split
      · by_cases e : a' = a
        · rw [below e, if_pos e]; simp_all
        · rw [if_neg e]
      · rw [Memory.read]
        by_cases e : a = a'
        · simp [e]
        · rw [if_neg e, if_neg (Ne.symm e)]
    · split
      · rename_i h; subst h
        have below : Memory.read rest c.1 = unlistedByte := Memory.read_of_all_lt _ _ hlt
        by_cases e : a' = c.1
        · subst e; split <;> simp_all [Memory.read]
        · split <;> simp [Memory.read, Ne.symm e]
      · rename_i h1 h2
        rw [Memory.read, Memory.read, ih]
        by_cases e : c.1 = a'
        · rw [if_pos e, if_pos e, if_neg (by omega)]
        · rw [if_neg e, if_neg e]

/-- A `put` at an address of the space keeps what every listed address is above. -/
theorem Memory.lt_put (m : Memory) (a : Nat) (b : Byte) (lo : Nat) (ha : lo < a) (hm : ∀ c ∈ m, lo < c.1) :
    ∀ c ∈ m.put a b, lo < c.1 := by
  induction m with
  | nil => unfold Memory.put; split <;> simp_all
  | cons c rest ih =>
    have hr : ∀ d ∈ rest, lo < d.1 := fun d hd => hm d (by simp [hd])
    have hc : lo < c.1 := hm c (by simp)
    unfold Memory.put
    split
    · split
      · exact hm
      · intro d hd; rcases List.mem_cons.1 hd with rfl | hd
        · exact ha
        · exact hm d hd
    · split
      · split
        · exact hr
        · intro d hd; rcases List.mem_cons.1 hd with rfl | hd
          · exact ha
          · exact hr d hd
      · intro d hd; rcases List.mem_cons.1 hd with rfl | hd
        · exact hc
        · exact ih hr d hd

/-- A `put` at an address of the space keeps the canonical form. -/
theorem Memory.wf_put (m : Memory) (hm : m.wf = true) (a : Nat) (ha : a < Config.memSize) (b : Byte) :
    (m.put a b).wf = true := by
  induction m with
  | nil => unfold Memory.put; split <;> simp_all [Memory.wf]
  | cons c rest ih =>
    obtain ⟨hc, hv, hlt, hr⟩ := (Memory.wf_cons c rest).1 hm
    unfold Memory.put
    split
    · rename_i h
      split
      · exact hm
      · rename_i hb
        refine (Memory.wf_cons _ _).2 ⟨ha, hb, fun d hd => ?_, hm⟩
        rcases List.mem_cons.1 hd with rfl | hd
        · exact h
        · exact h.trans (hlt d hd)
    · split
      · rename_i h; subst h
        split
        · exact hr
        · rename_i hb; exact (Memory.wf_cons _ _).2 ⟨ha, hb, hlt, hr⟩
      · refine (Memory.wf_cons _ _).2 ⟨hc, hv, Memory.lt_put rest a b _ (by omega) hlt, ih hr⟩

/-- Every write keeps the canonical form. -/
theorem Memory.wf_write (m : Memory) (hm : m.wf = true) (a : Nat) (b : Byte) : (m.write a b).wf = true := by
  unfold Memory.write
  split
  · exact Memory.wf_put m hm a ‹_› b
  · exact hm

/-- A read after a write, in a canonical memory: the byte written there, every other place alone. -/
theorem Memory.read_write (m : Memory) (hm : m.wf = true) (a : Nat) (b : Byte) (a' : Nat) :
    (m.write a b).read a' = if a' = a ∧ a < Config.memSize then b else m.read a' := by
  unfold Memory.write
  split
  · rw [Memory.read_put m hm]; simp_all
  · rw [if_neg (by omega)]

/-! ### Writing without the canonical form: a write still leaves every other place alone -/

/-- A `put` leaves every other address as it was, in any list. -/
theorem Memory.read_put_of_ne (m : Memory) (a : Nat) (b : Byte) (a' : Nat) (h : a' ≠ a) :
    (m.put a b).read a' = m.read a' := by
  induction m with
  | nil => unfold Memory.put; split <;> simp [Memory.read, Ne.symm h]
  | cons c rest ih =>
    unfold Memory.put
    split
    · split
      · rfl
      · simp [Memory.read, Ne.symm h]
    · split
      · rename_i e; subst e
        split <;> simp [Memory.read, Ne.symm h]
      · simp [Memory.read, ih]

/-- A write leaves every other address as it was, in any list. -/
theorem Memory.read_write_of_ne (m : Memory) (a : Nat) (b : Byte) (a' : Nat) (h : a' ≠ a) :
    (m.write a b).read a' = m.read a' := by
  unfold Memory.write
  split
  · exact Memory.read_put_of_ne m a b a' h
  · rfl

/-! ### Loading consecutive bytes -/

/-- Loading keeps the canonical form. -/
theorem Memory.wf_load (bs : List Byte) (m : Memory) (hm : m.wf = true) (a : Nat) : (m.load a bs).wf = true := by
  induction bs generalizing m a with
  | nil => exact hm
  | cons b rest ih => exact ih _ (Memory.wf_write m hm a b) _

/-- What reads after consecutive bytes were loaded inside the space. -/
theorem Memory.read_load (bs : List Byte) (m : Memory) (hm : m.wf = true) (a : Nat)
    (hfit : a + bs.length ≤ Config.memSize) (a' : Nat) :
    (m.load a bs).read a' = if a ≤ a' ∧ a' < a + bs.length then bs[a' - a]?.getD 0 else m.read a' := by
  induction bs generalizing m a with
  | nil => rw [if_neg (by simp)]; rfl
  | cons b rest ih =>
    simp only [List.length_cons] at hfit ⊢
    rw [Memory.load, ih _ (Memory.wf_write m hm a b) _ (by omega), Memory.read_write m hm]
    by_cases h : a' = a
    · subst h
      rw [if_neg (by omega), if_pos ⟨rfl, by omega⟩, if_pos (by omega)]
      simp
    · rw [if_neg (c := a' = a ∧ a < Config.memSize) (fun e => h e.1)]
      by_cases h' : a + 1 ≤ a' ∧ a' < a + 1 + rest.length
      · rw [if_pos h', if_pos (by omega), show a' - a = (a' - (a + 1)) + 1 by omega]
        simp
      · rw [if_neg h', if_neg (by omega)]

/-! ### Canonical memories are equal when they read the same -/

theorem Memory.ext_of_read (m n : Memory) (hm : m.wf = true) (hn : n.wf = true) (h : ∀ a, m.read a = n.read a) :
    m = n := by
  induction m generalizing n with
  | nil =>
    cases n with
    | nil => rfl
    | cons d rest =>
      have hd := ((Memory.wf_cons d rest).1 hn).2.1
      have := h d.1
      simp [Memory.read] at this
      exact absurd this.symm hd
  | cons c rest ih =>
    obtain ⟨-, hcv, hclt, hcr⟩ := (Memory.wf_cons c rest).1 hm
    have hc : Memory.read (c :: rest) c.1 = c.2 := by simp [Memory.read]
    cases n with
    | nil => rw [h c.1] at hc; exact absurd hc.symm hcv
    | cons d rest' =>
      obtain ⟨-, hdv, hdlt, hdr⟩ := (Memory.wf_cons d rest').1 hn
      have hd : Memory.read (d :: rest') d.1 = d.2 := by simp [Memory.read]
      have e : c.1 = d.1 := by
        rcases Nat.lt_trichotomy c.1 d.1 with hlt | he | hlt
        · have := Memory.read_of_all_lt (d :: rest') c.1 (by
            intro x hx; rcases List.mem_cons.1 hx with rfl | hx
            · exact hlt
            · exact hlt.trans (hdlt x hx))
          rw [← h, hc] at this; exact absurd this hcv
        · exact he
        · have := Memory.read_of_all_lt (c :: rest) d.1 (by
            intro x hx; rcases List.mem_cons.1 hx with rfl | hx
            · exact hlt
            · exact hlt.trans (hclt x hx))
          rw [h, hd] at this; exact absurd this hdv
      have ev : c.2 = d.2 := by rw [← hc, h, e, hd]
      have hrest : rest = rest' := by
        refine ih rest' hcr hdr fun a => ?_
        have ha := h a
        rw [Memory.read, Memory.read] at ha
        by_cases hac : a = c.1
        · rw [hac, Memory.read_of_all_lt rest _ hclt, Memory.read_of_all_lt rest' _ (by rw [e]; exact hdlt)]
        · rwa [if_neg (Ne.symm hac), if_neg (by rw [← e]; exact Ne.symm hac)] at ha
      rw [hrest, Prod.ext_iff.2 ⟨e, ev⟩]

end Sys2Proof.Machine
end

