-- ==== Sys2Proof/Laws/State.lean ====
section
/-! SUPPORT. The update lemmas of State: for each named update, what every field holds after it. -/

namespace Sys2Proof.Machine

/-! `State.setReg` -/

@[simp] theorem State.setReg_v (s : State) (r : Reg) (b : Byte) : (s.setReg r b).v = s.v.set r.toNat b := rfl
@[simp] theorem State.setReg_i (s : State) (r : Reg) (b : Byte) : (s.setReg r b).i = s.i := rfl
@[simp] theorem State.setReg_pc (s : State) (r : Reg) (b : Byte) : (s.setReg r b).pc = s.pc := rfl
@[simp] theorem State.setReg_sp (s : State) (r : Reg) (b : Byte) : (s.setReg r b).sp = s.sp := rfl
@[simp] theorem State.setReg_stack (s : State) (r : Reg) (b : Byte) : (s.setReg r b).stack = s.stack := rfl
@[simp] theorem State.setReg_dt (s : State) (r : Reg) (b : Byte) : (s.setReg r b).dt = s.dt := rfl
@[simp] theorem State.setReg_st (s : State) (r : Reg) (b : Byte) : (s.setReg r b).st = s.st := rfl
@[simp] theorem State.setReg_run (s : State) (r : Reg) (b : Byte) : (s.setReg r b).run = s.run := rfl
@[simp] theorem State.setReg_mem (s : State) (r : Reg) (b : Byte) : (s.setReg r b).mem = s.mem := rfl
@[simp] theorem State.setReg_fb (s : State) (r : Reg) (b : Byte) : (s.setReg r b).fb = s.fb := rfl
@[simp] theorem State.setReg_outcome (s : State) (r : Reg) (b : Byte) : (s.setReg r b).outcome = s.outcome := rfl
@[simp] theorem State.setReg_keys (s : State) (r : Reg) (b : Byte) : (s.setReg r b).keys = s.keys := rfl
@[simp] theorem State.setReg_rnd (s : State) (r : Reg) (b : Byte) : (s.setReg r b).rnd = s.rnd := rfl
@[simp] theorem State.setReg_ticks (s : State) (r : Reg) (b : Byte) : (s.setReg r b).ticks = s.ticks := rfl
@[simp] theorem State.setReg_clock (s : State) (r : Reg) (b : Byte) : (s.setReg r b).clock = s.clock := rfl

/-! `State.advance` -/

@[simp] theorem State.advance_v (s : State) : (s.advance).v = s.v := rfl
@[simp] theorem State.advance_i (s : State) : (s.advance).i = s.i := rfl
@[simp] theorem State.advance_pc (s : State) : (s.advance).pc = s.pc + 2 := rfl
@[simp] theorem State.advance_sp (s : State) : (s.advance).sp = s.sp := rfl
@[simp] theorem State.advance_stack (s : State) : (s.advance).stack = s.stack := rfl
@[simp] theorem State.advance_dt (s : State) : (s.advance).dt = s.dt := rfl
@[simp] theorem State.advance_st (s : State) : (s.advance).st = s.st := rfl
@[simp] theorem State.advance_run (s : State) : (s.advance).run = s.run := rfl
@[simp] theorem State.advance_mem (s : State) : (s.advance).mem = s.mem := rfl
@[simp] theorem State.advance_fb (s : State) : (s.advance).fb = s.fb := rfl
@[simp] theorem State.advance_outcome (s : State) : (s.advance).outcome = s.outcome := rfl
@[simp] theorem State.advance_keys (s : State) : (s.advance).keys = s.keys := rfl
@[simp] theorem State.advance_rnd (s : State) : (s.advance).rnd = s.rnd := rfl
@[simp] theorem State.advance_ticks (s : State) : (s.advance).ticks = s.ticks := rfl
@[simp] theorem State.advance_clock (s : State) : (s.advance).clock = s.clock := rfl

/-! `State.skipIf` -/

@[simp] theorem State.skipIf_v (s : State) (c : Bool) : (s.skipIf c).v = s.v := rfl
@[simp] theorem State.skipIf_i (s : State) (c : Bool) : (s.skipIf c).i = s.i := rfl
@[simp] theorem State.skipIf_pc (s : State) (c : Bool) : (s.skipIf c).pc = if c then s.pc + 2 else s.pc := rfl
@[simp] theorem State.skipIf_sp (s : State) (c : Bool) : (s.skipIf c).sp = s.sp := rfl
@[simp] theorem State.skipIf_stack (s : State) (c : Bool) : (s.skipIf c).stack = s.stack := rfl
@[simp] theorem State.skipIf_dt (s : State) (c : Bool) : (s.skipIf c).dt = s.dt := rfl
@[simp] theorem State.skipIf_st (s : State) (c : Bool) : (s.skipIf c).st = s.st := rfl
@[simp] theorem State.skipIf_run (s : State) (c : Bool) : (s.skipIf c).run = s.run := rfl
@[simp] theorem State.skipIf_mem (s : State) (c : Bool) : (s.skipIf c).mem = s.mem := rfl
@[simp] theorem State.skipIf_fb (s : State) (c : Bool) : (s.skipIf c).fb = s.fb := rfl
@[simp] theorem State.skipIf_outcome (s : State) (c : Bool) : (s.skipIf c).outcome = s.outcome := rfl
@[simp] theorem State.skipIf_keys (s : State) (c : Bool) : (s.skipIf c).keys = s.keys := rfl
@[simp] theorem State.skipIf_rnd (s : State) (c : Bool) : (s.skipIf c).rnd = s.rnd := rfl
@[simp] theorem State.skipIf_ticks (s : State) (c : Bool) : (s.skipIf c).ticks = s.ticks := rfl
@[simp] theorem State.skipIf_clock (s : State) (c : Bool) : (s.skipIf c).clock = s.clock := rfl

/-! `State.setPc` -/

@[simp] theorem State.setPc_v (s : State) (a : Word) : (s.setPc a).v = s.v := rfl
@[simp] theorem State.setPc_i (s : State) (a : Word) : (s.setPc a).i = s.i := rfl
@[simp] theorem State.setPc_pc (s : State) (a : Word) : (s.setPc a).pc = a := rfl
@[simp] theorem State.setPc_sp (s : State) (a : Word) : (s.setPc a).sp = s.sp := rfl
@[simp] theorem State.setPc_stack (s : State) (a : Word) : (s.setPc a).stack = s.stack := rfl
@[simp] theorem State.setPc_dt (s : State) (a : Word) : (s.setPc a).dt = s.dt := rfl
@[simp] theorem State.setPc_st (s : State) (a : Word) : (s.setPc a).st = s.st := rfl
@[simp] theorem State.setPc_run (s : State) (a : Word) : (s.setPc a).run = s.run := rfl
@[simp] theorem State.setPc_mem (s : State) (a : Word) : (s.setPc a).mem = s.mem := rfl
@[simp] theorem State.setPc_fb (s : State) (a : Word) : (s.setPc a).fb = s.fb := rfl
@[simp] theorem State.setPc_outcome (s : State) (a : Word) : (s.setPc a).outcome = s.outcome := rfl
@[simp] theorem State.setPc_keys (s : State) (a : Word) : (s.setPc a).keys = s.keys := rfl
@[simp] theorem State.setPc_rnd (s : State) (a : Word) : (s.setPc a).rnd = s.rnd := rfl
@[simp] theorem State.setPc_ticks (s : State) (a : Word) : (s.setPc a).ticks = s.ticks := rfl
@[simp] theorem State.setPc_clock (s : State) (a : Word) : (s.setPc a).clock = s.clock := rfl

/-! `State.setI` -/

@[simp] theorem State.setI_v (s : State) (a : Word) : (s.setI a).v = s.v := rfl
@[simp] theorem State.setI_i (s : State) (a : Word) : (s.setI a).i = a := rfl
@[simp] theorem State.setI_pc (s : State) (a : Word) : (s.setI a).pc = s.pc := rfl
@[simp] theorem State.setI_sp (s : State) (a : Word) : (s.setI a).sp = s.sp := rfl
@[simp] theorem State.setI_stack (s : State) (a : Word) : (s.setI a).stack = s.stack := rfl
@[simp] theorem State.setI_dt (s : State) (a : Word) : (s.setI a).dt = s.dt := rfl
@[simp] theorem State.setI_st (s : State) (a : Word) : (s.setI a).st = s.st := rfl
@[simp] theorem State.setI_run (s : State) (a : Word) : (s.setI a).run = s.run := rfl
@[simp] theorem State.setI_mem (s : State) (a : Word) : (s.setI a).mem = s.mem := rfl
@[simp] theorem State.setI_fb (s : State) (a : Word) : (s.setI a).fb = s.fb := rfl
@[simp] theorem State.setI_outcome (s : State) (a : Word) : (s.setI a).outcome = s.outcome := rfl
@[simp] theorem State.setI_keys (s : State) (a : Word) : (s.setI a).keys = s.keys := rfl
@[simp] theorem State.setI_rnd (s : State) (a : Word) : (s.setI a).rnd = s.rnd := rfl
@[simp] theorem State.setI_ticks (s : State) (a : Word) : (s.setI a).ticks = s.ticks := rfl
@[simp] theorem State.setI_clock (s : State) (a : Word) : (s.setI a).clock = s.clock := rfl

/-! `State.raiseFatal` -/

@[simp] theorem State.raiseFatal_v (s : State) (k : FatalKind) : (s.raiseFatal k).v = s.v := rfl
@[simp] theorem State.raiseFatal_i (s : State) (k : FatalKind) : (s.raiseFatal k).i = s.i := rfl
@[simp] theorem State.raiseFatal_pc (s : State) (k : FatalKind) : (s.raiseFatal k).pc = s.pc := rfl
@[simp] theorem State.raiseFatal_sp (s : State) (k : FatalKind) : (s.raiseFatal k).sp = s.sp := rfl
@[simp] theorem State.raiseFatal_stack (s : State) (k : FatalKind) : (s.raiseFatal k).stack = s.stack := rfl
@[simp] theorem State.raiseFatal_dt (s : State) (k : FatalKind) : (s.raiseFatal k).dt = s.dt := rfl
@[simp] theorem State.raiseFatal_st (s : State) (k : FatalKind) : (s.raiseFatal k).st = s.st := rfl
@[simp] theorem State.raiseFatal_run (s : State) (k : FatalKind) : (s.raiseFatal k).run = .faulted k := rfl
@[simp] theorem State.raiseFatal_mem (s : State) (k : FatalKind) : (s.raiseFatal k).mem = s.mem := rfl
@[simp] theorem State.raiseFatal_fb (s : State) (k : FatalKind) : (s.raiseFatal k).fb = s.fb := rfl
@[simp] theorem State.raiseFatal_outcome (s : State) (k : FatalKind) : (s.raiseFatal k).outcome = .fatal k := rfl
@[simp] theorem State.raiseFatal_keys (s : State) (k : FatalKind) : (s.raiseFatal k).keys = s.keys := rfl
@[simp] theorem State.raiseFatal_rnd (s : State) (k : FatalKind) : (s.raiseFatal k).rnd = s.rnd := rfl
@[simp] theorem State.raiseFatal_ticks (s : State) (k : FatalKind) : (s.raiseFatal k).ticks = s.ticks := rfl
@[simp] theorem State.raiseFatal_clock (s : State) (k : FatalKind) : (s.raiseFatal k).clock = s.clock := rfl

/-! `State.report` -/

@[simp] theorem State.report_v (s : State) (k : ReportKind) : (s.report k).v = s.v := rfl
@[simp] theorem State.report_i (s : State) (k : ReportKind) : (s.report k).i = s.i := rfl
@[simp] theorem State.report_pc (s : State) (k : ReportKind) : (s.report k).pc = s.pc := rfl
@[simp] theorem State.report_sp (s : State) (k : ReportKind) : (s.report k).sp = s.sp := rfl
@[simp] theorem State.report_stack (s : State) (k : ReportKind) : (s.report k).stack = s.stack := rfl
@[simp] theorem State.report_dt (s : State) (k : ReportKind) : (s.report k).dt = s.dt := rfl
@[simp] theorem State.report_st (s : State) (k : ReportKind) : (s.report k).st = s.st := rfl
@[simp] theorem State.report_run (s : State) (k : ReportKind) : (s.report k).run = s.run := rfl
@[simp] theorem State.report_mem (s : State) (k : ReportKind) : (s.report k).mem = s.mem := rfl
@[simp] theorem State.report_fb (s : State) (k : ReportKind) : (s.report k).fb = s.fb := rfl
@[simp] theorem State.report_outcome (s : State) (k : ReportKind) : (s.report k).outcome = .reported k := rfl
@[simp] theorem State.report_keys (s : State) (k : ReportKind) : (s.report k).keys = s.keys := rfl
@[simp] theorem State.report_rnd (s : State) (k : ReportKind) : (s.report k).rnd = s.rnd := rfl
@[simp] theorem State.report_ticks (s : State) (k : ReportKind) : (s.report k).ticks = s.ticks := rfl
@[simp] theorem State.report_clock (s : State) (k : ReportKind) : (s.report k).clock = s.clock := rfl

/-! `State.tick` -/

@[simp] theorem State.tick_v (s : State) : (s.tick).v = s.v := rfl
@[simp] theorem State.tick_i (s : State) : (s.tick).i = s.i := rfl
@[simp] theorem State.tick_pc (s : State) : (s.tick).pc = s.pc := rfl
@[simp] theorem State.tick_sp (s : State) : (s.tick).sp = s.sp := rfl
@[simp] theorem State.tick_stack (s : State) : (s.tick).stack = s.stack := rfl
@[simp] theorem State.tick_dt (s : State) : (s.tick).dt = countDown s.dt := rfl
@[simp] theorem State.tick_st (s : State) : (s.tick).st = countDown s.st := rfl
@[simp] theorem State.tick_run (s : State) : (s.tick).run = s.run := rfl
@[simp] theorem State.tick_mem (s : State) : (s.tick).mem = s.mem := rfl
@[simp] theorem State.tick_fb (s : State) : (s.tick).fb = s.fb := rfl
@[simp] theorem State.tick_outcome (s : State) : (s.tick).outcome = s.outcome := rfl
@[simp] theorem State.tick_keys (s : State) : (s.tick).keys = s.keys := rfl
@[simp] theorem State.tick_rnd (s : State) : (s.tick).rnd = s.rnd := rfl
@[simp] theorem State.tick_ticks (s : State) : (s.tick).ticks = s.ticks := rfl
@[simp] theorem State.tick_clock (s : State) : (s.tick).clock = s.clock := rfl

/-! `State.tickTimes` -/

@[simp] theorem State.tickTimes_v (s : State) (n : Nat) : (s.tickTimes n).v = s.v := rfl
@[simp] theorem State.tickTimes_i (s : State) (n : Nat) : (s.tickTimes n).i = s.i := rfl
@[simp] theorem State.tickTimes_pc (s : State) (n : Nat) : (s.tickTimes n).pc = s.pc := rfl
@[simp] theorem State.tickTimes_sp (s : State) (n : Nat) : (s.tickTimes n).sp = s.sp := rfl
@[simp] theorem State.tickTimes_stack (s : State) (n : Nat) : (s.tickTimes n).stack = s.stack := rfl
@[simp] theorem State.tickTimes_dt (s : State) (n : Nat) : (s.tickTimes n).dt = countDownTimes n s.dt := rfl
@[simp] theorem State.tickTimes_st (s : State) (n : Nat) : (s.tickTimes n).st = countDownTimes n s.st := rfl
@[simp] theorem State.tickTimes_run (s : State) (n : Nat) : (s.tickTimes n).run = s.run := rfl
@[simp] theorem State.tickTimes_mem (s : State) (n : Nat) : (s.tickTimes n).mem = s.mem := rfl
@[simp] theorem State.tickTimes_fb (s : State) (n : Nat) : (s.tickTimes n).fb = s.fb := rfl
@[simp] theorem State.tickTimes_outcome (s : State) (n : Nat) : (s.tickTimes n).outcome = s.outcome := rfl
@[simp] theorem State.tickTimes_keys (s : State) (n : Nat) : (s.tickTimes n).keys = s.keys := rfl
@[simp] theorem State.tickTimes_rnd (s : State) (n : Nat) : (s.tickTimes n).rnd = s.rnd := rfl
@[simp] theorem State.tickTimes_ticks (s : State) (n : Nat) : (s.tickTimes n).ticks = s.ticks := rfl
@[simp] theorem State.tickTimes_clock (s : State) (n : Nat) : (s.tickTimes n).clock = s.clock := rfl

/-! `State.withInputs` -/

@[simp] theorem State.withInputs_v (s : State) (k : Config.Keys) (b : Byte) : (s.withInputs k b).v = s.v := rfl
@[simp] theorem State.withInputs_i (s : State) (k : Config.Keys) (b : Byte) : (s.withInputs k b).i = s.i := rfl
@[simp] theorem State.withInputs_pc (s : State) (k : Config.Keys) (b : Byte) : (s.withInputs k b).pc = s.pc := rfl
@[simp] theorem State.withInputs_sp (s : State) (k : Config.Keys) (b : Byte) : (s.withInputs k b).sp = s.sp := rfl
@[simp] theorem State.withInputs_stack (s : State) (k : Config.Keys) (b : Byte) : (s.withInputs k b).stack = s.stack := rfl
@[simp] theorem State.withInputs_dt (s : State) (k : Config.Keys) (b : Byte) : (s.withInputs k b).dt = s.dt := rfl
@[simp] theorem State.withInputs_st (s : State) (k : Config.Keys) (b : Byte) : (s.withInputs k b).st = s.st := rfl
@[simp] theorem State.withInputs_run (s : State) (k : Config.Keys) (b : Byte) : (s.withInputs k b).run = s.run := rfl
@[simp] theorem State.withInputs_mem (s : State) (k : Config.Keys) (b : Byte) : (s.withInputs k b).mem = s.mem := rfl
@[simp] theorem State.withInputs_fb (s : State) (k : Config.Keys) (b : Byte) : (s.withInputs k b).fb = s.fb := rfl
@[simp] theorem State.withInputs_outcome (s : State) (k : Config.Keys) (b : Byte) : (s.withInputs k b).outcome = .done := rfl
@[simp] theorem State.withInputs_keys (s : State) (k : Config.Keys) (b : Byte) : (s.withInputs k b).keys = k := rfl
@[simp] theorem State.withInputs_rnd (s : State) (k : Config.Keys) (b : Byte) : (s.withInputs k b).rnd = b := rfl
@[simp] theorem State.withInputs_ticks (s : State) (k : Config.Keys) (b : Byte) : (s.withInputs k b).ticks = s.ticks := rfl
@[simp] theorem State.withInputs_clock (s : State) (k : Config.Keys) (b : Byte) : (s.withInputs k b).clock = s.clock := rfl

/-! `State.drawInputs` -/

@[simp] theorem State.drawInputs_v (s : State) : (s.drawInputs).v = s.v := rfl
@[simp] theorem State.drawInputs_i (s : State) : (s.drawInputs).i = s.i := rfl
@[simp] theorem State.drawInputs_pc (s : State) : (s.drawInputs).pc = s.pc := rfl
@[simp] theorem State.drawInputs_sp (s : State) : (s.drawInputs).sp = s.sp := rfl
@[simp] theorem State.drawInputs_stack (s : State) : (s.drawInputs).stack = s.stack := rfl
@[simp] theorem State.drawInputs_dt (s : State) : (s.drawInputs).dt = s.dt := rfl
@[simp] theorem State.drawInputs_st (s : State) : (s.drawInputs).st = s.st := rfl
@[simp] theorem State.drawInputs_run (s : State) : (s.drawInputs).run = s.run := rfl
@[simp] theorem State.drawInputs_mem (s : State) : (s.drawInputs).mem = s.mem := rfl
@[simp] theorem State.drawInputs_fb (s : State) : (s.drawInputs).fb = s.fb := rfl
@[simp] theorem State.drawInputs_outcome (s : State) : (s.drawInputs).outcome = s.outcome := rfl
@[simp] theorem State.drawInputs_keys (s : State) : (s.drawInputs).keys = Config.keysAt s.clock := rfl
@[simp] theorem State.drawInputs_rnd (s : State) : (s.drawInputs).rnd = Config.rndAt s.clock := rfl
@[simp] theorem State.drawInputs_ticks (s : State) : (s.drawInputs).ticks = Config.ticksAt s.clock := rfl
@[simp] theorem State.drawInputs_clock (s : State) : (s.drawInputs).clock = s.clock + 1 := rfl

/-! `State.initialise` -/

@[simp] theorem State.initialise_v (s : State) (m : Memory) : (s.initialise m).v = Vector.replicate 16 0 := rfl
@[simp] theorem State.initialise_i (s : State) (m : Memory) : (s.initialise m).i = 0 := rfl
@[simp] theorem State.initialise_pc (s : State) (m : Memory) : (s.initialise m).pc = 0x200 := rfl
@[simp] theorem State.initialise_sp (s : State) (m : Memory) : (s.initialise m).sp = 0 := rfl
@[simp] theorem State.initialise_stack (s : State) (m : Memory) : (s.initialise m).stack = Vector.replicate 16 0 := rfl
@[simp] theorem State.initialise_dt (s : State) (m : Memory) : (s.initialise m).dt = 0 := rfl
@[simp] theorem State.initialise_st (s : State) (m : Memory) : (s.initialise m).st = 0 := rfl
@[simp] theorem State.initialise_run (s : State) (m : Memory) : (s.initialise m).run = .ready := rfl
@[simp] theorem State.initialise_mem (s : State) (m : Memory) : (s.initialise m).mem = m := rfl
@[simp] theorem State.initialise_fb (s : State) (m : Memory) : (s.initialise m).fb = 0 := rfl
@[simp] theorem State.initialise_outcome (s : State) (m : Memory) : (s.initialise m).outcome = s.outcome := rfl
@[simp] theorem State.initialise_keys (s : State) (m : Memory) : (s.initialise m).keys = s.keys := rfl
@[simp] theorem State.initialise_rnd (s : State) (m : Memory) : (s.initialise m).rnd = s.rnd := rfl
@[simp] theorem State.initialise_ticks (s : State) (m : Memory) : (s.initialise m).ticks = s.ticks := rfl
@[simp] theorem State.initialise_clock (s : State) (m : Memory) : (s.initialise m).clock = s.clock := rfl

/-! `State.setRegs` -/

@[simp] theorem State.setRegs_v (s : State) (w : Vector Byte 16) : (s.setRegs w).v = w := rfl
@[simp] theorem State.setRegs_i (s : State) (w : Vector Byte 16) : (s.setRegs w).i = s.i := rfl
@[simp] theorem State.setRegs_pc (s : State) (w : Vector Byte 16) : (s.setRegs w).pc = s.pc := rfl
@[simp] theorem State.setRegs_sp (s : State) (w : Vector Byte 16) : (s.setRegs w).sp = s.sp := rfl
@[simp] theorem State.setRegs_stack (s : State) (w : Vector Byte 16) : (s.setRegs w).stack = s.stack := rfl
@[simp] theorem State.setRegs_dt (s : State) (w : Vector Byte 16) : (s.setRegs w).dt = s.dt := rfl
@[simp] theorem State.setRegs_st (s : State) (w : Vector Byte 16) : (s.setRegs w).st = s.st := rfl
@[simp] theorem State.setRegs_run (s : State) (w : Vector Byte 16) : (s.setRegs w).run = s.run := rfl
@[simp] theorem State.setRegs_mem (s : State) (w : Vector Byte 16) : (s.setRegs w).mem = s.mem := rfl
@[simp] theorem State.setRegs_fb (s : State) (w : Vector Byte 16) : (s.setRegs w).fb = s.fb := rfl
@[simp] theorem State.setRegs_outcome (s : State) (w : Vector Byte 16) : (s.setRegs w).outcome = s.outcome := rfl
@[simp] theorem State.setRegs_keys (s : State) (w : Vector Byte 16) : (s.setRegs w).keys = s.keys := rfl
@[simp] theorem State.setRegs_rnd (s : State) (w : Vector Byte 16) : (s.setRegs w).rnd = s.rnd := rfl
@[simp] theorem State.setRegs_ticks (s : State) (w : Vector Byte 16) : (s.setRegs w).ticks = s.ticks := rfl
@[simp] theorem State.setRegs_clock (s : State) (w : Vector Byte 16) : (s.setRegs w).clock = s.clock := rfl

/-! `State.setMem` -/

@[simp] theorem State.setMem_v (s : State) (m : Memory) : (s.setMem m).v = s.v := rfl
@[simp] theorem State.setMem_i (s : State) (m : Memory) : (s.setMem m).i = s.i := rfl
@[simp] theorem State.setMem_pc (s : State) (m : Memory) : (s.setMem m).pc = s.pc := rfl
@[simp] theorem State.setMem_sp (s : State) (m : Memory) : (s.setMem m).sp = s.sp := rfl
@[simp] theorem State.setMem_stack (s : State) (m : Memory) : (s.setMem m).stack = s.stack := rfl
@[simp] theorem State.setMem_dt (s : State) (m : Memory) : (s.setMem m).dt = s.dt := rfl
@[simp] theorem State.setMem_st (s : State) (m : Memory) : (s.setMem m).st = s.st := rfl
@[simp] theorem State.setMem_run (s : State) (m : Memory) : (s.setMem m).run = s.run := rfl
@[simp] theorem State.setMem_mem (s : State) (m : Memory) : (s.setMem m).mem = m := rfl
@[simp] theorem State.setMem_fb (s : State) (m : Memory) : (s.setMem m).fb = s.fb := rfl
@[simp] theorem State.setMem_outcome (s : State) (m : Memory) : (s.setMem m).outcome = s.outcome := rfl
@[simp] theorem State.setMem_keys (s : State) (m : Memory) : (s.setMem m).keys = s.keys := rfl
@[simp] theorem State.setMem_rnd (s : State) (m : Memory) : (s.setMem m).rnd = s.rnd := rfl
@[simp] theorem State.setMem_ticks (s : State) (m : Memory) : (s.setMem m).ticks = s.ticks := rfl
@[simp] theorem State.setMem_clock (s : State) (m : Memory) : (s.setMem m).clock = s.clock := rfl

/-! `State.setFb` -/

@[simp] theorem State.setFb_v (s : State) (f : FrameBuffer) : (s.setFb f).v = s.v := rfl
@[simp] theorem State.setFb_i (s : State) (f : FrameBuffer) : (s.setFb f).i = s.i := rfl
@[simp] theorem State.setFb_pc (s : State) (f : FrameBuffer) : (s.setFb f).pc = s.pc := rfl
@[simp] theorem State.setFb_sp (s : State) (f : FrameBuffer) : (s.setFb f).sp = s.sp := rfl
@[simp] theorem State.setFb_stack (s : State) (f : FrameBuffer) : (s.setFb f).stack = s.stack := rfl
@[simp] theorem State.setFb_dt (s : State) (f : FrameBuffer) : (s.setFb f).dt = s.dt := rfl
@[simp] theorem State.setFb_st (s : State) (f : FrameBuffer) : (s.setFb f).st = s.st := rfl
@[simp] theorem State.setFb_run (s : State) (f : FrameBuffer) : (s.setFb f).run = s.run := rfl
@[simp] theorem State.setFb_mem (s : State) (f : FrameBuffer) : (s.setFb f).mem = s.mem := rfl
@[simp] theorem State.setFb_fb (s : State) (f : FrameBuffer) : (s.setFb f).fb = f := rfl
@[simp] theorem State.setFb_outcome (s : State) (f : FrameBuffer) : (s.setFb f).outcome = s.outcome := rfl
@[simp] theorem State.setFb_keys (s : State) (f : FrameBuffer) : (s.setFb f).keys = s.keys := rfl
@[simp] theorem State.setFb_rnd (s : State) (f : FrameBuffer) : (s.setFb f).rnd = s.rnd := rfl
@[simp] theorem State.setFb_ticks (s : State) (f : FrameBuffer) : (s.setFb f).ticks = s.ticks := rfl
@[simp] theorem State.setFb_clock (s : State) (f : FrameBuffer) : (s.setFb f).clock = s.clock := rfl

/-! `State.setStack` -/

@[simp] theorem State.setStack_v (s : State) (l : Vector Word 16) (p : Byte) : (s.setStack l p).v = s.v := rfl
@[simp] theorem State.setStack_i (s : State) (l : Vector Word 16) (p : Byte) : (s.setStack l p).i = s.i := rfl
@[simp] theorem State.setStack_pc (s : State) (l : Vector Word 16) (p : Byte) : (s.setStack l p).pc = s.pc := rfl
@[simp] theorem State.setStack_sp (s : State) (l : Vector Word 16) (p : Byte) : (s.setStack l p).sp = p := rfl
@[simp] theorem State.setStack_stack (s : State) (l : Vector Word 16) (p : Byte) : (s.setStack l p).stack = l := rfl
@[simp] theorem State.setStack_dt (s : State) (l : Vector Word 16) (p : Byte) : (s.setStack l p).dt = s.dt := rfl
@[simp] theorem State.setStack_st (s : State) (l : Vector Word 16) (p : Byte) : (s.setStack l p).st = s.st := rfl
@[simp] theorem State.setStack_run (s : State) (l : Vector Word 16) (p : Byte) : (s.setStack l p).run = s.run := rfl
@[simp] theorem State.setStack_mem (s : State) (l : Vector Word 16) (p : Byte) : (s.setStack l p).mem = s.mem := rfl
@[simp] theorem State.setStack_fb (s : State) (l : Vector Word 16) (p : Byte) : (s.setStack l p).fb = s.fb := rfl
@[simp] theorem State.setStack_outcome (s : State) (l : Vector Word 16) (p : Byte) : (s.setStack l p).outcome = s.outcome := rfl
@[simp] theorem State.setStack_keys (s : State) (l : Vector Word 16) (p : Byte) : (s.setStack l p).keys = s.keys := rfl
@[simp] theorem State.setStack_rnd (s : State) (l : Vector Word 16) (p : Byte) : (s.setStack l p).rnd = s.rnd := rfl
@[simp] theorem State.setStack_ticks (s : State) (l : Vector Word 16) (p : Byte) : (s.setStack l p).ticks = s.ticks := rfl
@[simp] theorem State.setStack_clock (s : State) (l : Vector Word 16) (p : Byte) : (s.setStack l p).clock = s.clock := rfl

/-! `State.setDt` -/

@[simp] theorem State.setDt_v (s : State) (b : Byte) : (s.setDt b).v = s.v := rfl
@[simp] theorem State.setDt_i (s : State) (b : Byte) : (s.setDt b).i = s.i := rfl
@[simp] theorem State.setDt_pc (s : State) (b : Byte) : (s.setDt b).pc = s.pc := rfl
@[simp] theorem State.setDt_sp (s : State) (b : Byte) : (s.setDt b).sp = s.sp := rfl
@[simp] theorem State.setDt_stack (s : State) (b : Byte) : (s.setDt b).stack = s.stack := rfl
@[simp] theorem State.setDt_dt (s : State) (b : Byte) : (s.setDt b).dt = b := rfl
@[simp] theorem State.setDt_st (s : State) (b : Byte) : (s.setDt b).st = s.st := rfl
@[simp] theorem State.setDt_run (s : State) (b : Byte) : (s.setDt b).run = s.run := rfl
@[simp] theorem State.setDt_mem (s : State) (b : Byte) : (s.setDt b).mem = s.mem := rfl
@[simp] theorem State.setDt_fb (s : State) (b : Byte) : (s.setDt b).fb = s.fb := rfl
@[simp] theorem State.setDt_outcome (s : State) (b : Byte) : (s.setDt b).outcome = s.outcome := rfl
@[simp] theorem State.setDt_keys (s : State) (b : Byte) : (s.setDt b).keys = s.keys := rfl
@[simp] theorem State.setDt_rnd (s : State) (b : Byte) : (s.setDt b).rnd = s.rnd := rfl
@[simp] theorem State.setDt_ticks (s : State) (b : Byte) : (s.setDt b).ticks = s.ticks := rfl
@[simp] theorem State.setDt_clock (s : State) (b : Byte) : (s.setDt b).clock = s.clock := rfl

/-! `State.setSt` -/

@[simp] theorem State.setSt_v (s : State) (b : Byte) : (s.setSt b).v = s.v := rfl
@[simp] theorem State.setSt_i (s : State) (b : Byte) : (s.setSt b).i = s.i := rfl
@[simp] theorem State.setSt_pc (s : State) (b : Byte) : (s.setSt b).pc = s.pc := rfl
@[simp] theorem State.setSt_sp (s : State) (b : Byte) : (s.setSt b).sp = s.sp := rfl
@[simp] theorem State.setSt_stack (s : State) (b : Byte) : (s.setSt b).stack = s.stack := rfl
@[simp] theorem State.setSt_dt (s : State) (b : Byte) : (s.setSt b).dt = s.dt := rfl
@[simp] theorem State.setSt_st (s : State) (b : Byte) : (s.setSt b).st = b := rfl
@[simp] theorem State.setSt_run (s : State) (b : Byte) : (s.setSt b).run = s.run := rfl
@[simp] theorem State.setSt_mem (s : State) (b : Byte) : (s.setSt b).mem = s.mem := rfl
@[simp] theorem State.setSt_fb (s : State) (b : Byte) : (s.setSt b).fb = s.fb := rfl
@[simp] theorem State.setSt_outcome (s : State) (b : Byte) : (s.setSt b).outcome = s.outcome := rfl
@[simp] theorem State.setSt_keys (s : State) (b : Byte) : (s.setSt b).keys = s.keys := rfl
@[simp] theorem State.setSt_rnd (s : State) (b : Byte) : (s.setSt b).rnd = s.rnd := rfl
@[simp] theorem State.setSt_ticks (s : State) (b : Byte) : (s.setSt b).ticks = s.ticks := rfl
@[simp] theorem State.setSt_clock (s : State) (b : Byte) : (s.setSt b).clock = s.clock := rfl

/-! `State.setRun` -/

@[simp] theorem State.setRun_v (s : State) (r : RunState) : (s.setRun r).v = s.v := rfl
@[simp] theorem State.setRun_i (s : State) (r : RunState) : (s.setRun r).i = s.i := rfl
@[simp] theorem State.setRun_pc (s : State) (r : RunState) : (s.setRun r).pc = s.pc := rfl
@[simp] theorem State.setRun_sp (s : State) (r : RunState) : (s.setRun r).sp = s.sp := rfl
@[simp] theorem State.setRun_stack (s : State) (r : RunState) : (s.setRun r).stack = s.stack := rfl
@[simp] theorem State.setRun_dt (s : State) (r : RunState) : (s.setRun r).dt = s.dt := rfl
@[simp] theorem State.setRun_st (s : State) (r : RunState) : (s.setRun r).st = s.st := rfl
@[simp] theorem State.setRun_run (s : State) (r : RunState) : (s.setRun r).run = r := rfl
@[simp] theorem State.setRun_mem (s : State) (r : RunState) : (s.setRun r).mem = s.mem := rfl
@[simp] theorem State.setRun_fb (s : State) (r : RunState) : (s.setRun r).fb = s.fb := rfl
@[simp] theorem State.setRun_outcome (s : State) (r : RunState) : (s.setRun r).outcome = s.outcome := rfl
@[simp] theorem State.setRun_keys (s : State) (r : RunState) : (s.setRun r).keys = s.keys := rfl
@[simp] theorem State.setRun_rnd (s : State) (r : RunState) : (s.setRun r).rnd = s.rnd := rfl
@[simp] theorem State.setRun_ticks (s : State) (r : RunState) : (s.setRun r).ticks = s.ticks := rfl
@[simp] theorem State.setRun_clock (s : State) (r : RunState) : (s.setRun r).clock = s.clock := rfl

/-! `State.setOutcome` -/

@[simp] theorem State.setOutcome_v (s : State) (o : StepOutcome) : (s.setOutcome o).v = s.v := rfl
@[simp] theorem State.setOutcome_i (s : State) (o : StepOutcome) : (s.setOutcome o).i = s.i := rfl
@[simp] theorem State.setOutcome_pc (s : State) (o : StepOutcome) : (s.setOutcome o).pc = s.pc := rfl
@[simp] theorem State.setOutcome_sp (s : State) (o : StepOutcome) : (s.setOutcome o).sp = s.sp := rfl
@[simp] theorem State.setOutcome_stack (s : State) (o : StepOutcome) : (s.setOutcome o).stack = s.stack := rfl
@[simp] theorem State.setOutcome_dt (s : State) (o : StepOutcome) : (s.setOutcome o).dt = s.dt := rfl
@[simp] theorem State.setOutcome_st (s : State) (o : StepOutcome) : (s.setOutcome o).st = s.st := rfl
@[simp] theorem State.setOutcome_run (s : State) (o : StepOutcome) : (s.setOutcome o).run = s.run := rfl
@[simp] theorem State.setOutcome_mem (s : State) (o : StepOutcome) : (s.setOutcome o).mem = s.mem := rfl
@[simp] theorem State.setOutcome_fb (s : State) (o : StepOutcome) : (s.setOutcome o).fb = s.fb := rfl
@[simp] theorem State.setOutcome_outcome (s : State) (o : StepOutcome) : (s.setOutcome o).outcome = o := rfl
@[simp] theorem State.setOutcome_keys (s : State) (o : StepOutcome) : (s.setOutcome o).keys = s.keys := rfl
@[simp] theorem State.setOutcome_rnd (s : State) (o : StepOutcome) : (s.setOutcome o).rnd = s.rnd := rfl
@[simp] theorem State.setOutcome_ticks (s : State) (o : StepOutcome) : (s.setOutcome o).ticks = s.ticks := rfl
@[simp] theorem State.setOutcome_clock (s : State) (o : StepOutcome) : (s.setOutcome o).clock = s.clock := rfl

/-! ### `V[r]` through the updates -/

@[simp] theorem State.reg_advance (s : State) (q : Reg) : (s.advance).reg q = s.reg q := rfl
@[simp] theorem State.reg_skipIf (s : State) (c : Bool) (q : Reg) : (s.skipIf c).reg q = s.reg q := rfl
@[simp] theorem State.reg_setPc (s : State) (a : Word) (q : Reg) : (s.setPc a).reg q = s.reg q := rfl
@[simp] theorem State.reg_setI (s : State) (a : Word) (q : Reg) : (s.setI a).reg q = s.reg q := rfl
@[simp] theorem State.reg_raiseFatal (s : State) (k : FatalKind) (q : Reg) : (s.raiseFatal k).reg q = s.reg q := rfl
@[simp] theorem State.reg_report (s : State) (k : ReportKind) (q : Reg) : (s.report k).reg q = s.reg q := rfl
@[simp] theorem State.reg_tick (s : State) (q : Reg) : (s.tick).reg q = s.reg q := rfl
@[simp] theorem State.reg_tickTimes (s : State) (n : Nat) (q : Reg) : (s.tickTimes n).reg q = s.reg q := rfl
@[simp] theorem State.reg_withInputs (s : State) (k : Config.Keys) (b : Byte) (q : Reg) : (s.withInputs k b).reg q = s.reg q := rfl
@[simp] theorem State.reg_drawInputs (s : State) (q : Reg) : (s.drawInputs).reg q = s.reg q := rfl
@[simp] theorem State.reg_setMem (s : State) (m : Memory) (q : Reg) : (s.setMem m).reg q = s.reg q := rfl
@[simp] theorem State.reg_setFb (s : State) (f : FrameBuffer) (q : Reg) : (s.setFb f).reg q = s.reg q := rfl
@[simp] theorem State.reg_setStack (s : State) (l : Vector Word 16) (p : Byte) (q : Reg) : (s.setStack l p).reg q = s.reg q := rfl
@[simp] theorem State.reg_setDt (s : State) (b : Byte) (q : Reg) : (s.setDt b).reg q = s.reg q := rfl
@[simp] theorem State.reg_setSt (s : State) (b : Byte) (q : Reg) : (s.setSt b).reg q = s.reg q := rfl
@[simp] theorem State.reg_setRun (s : State) (r : RunState) (q : Reg) : (s.setRun r).reg q = s.reg q := rfl
@[simp] theorem State.reg_setOutcome (s : State) (o : StepOutcome) (q : Reg) : (s.setOutcome o).reg q = s.reg q := rfl

@[simp] theorem State.reg_setRegs (s : State) (w : Vector Byte 16) (q : Reg) : (s.setRegs w).reg q = w[q.toNat] := rfl

theorem State.reg_setReg (s : State) (q r : Reg) (b : Byte) :
    (s.setReg q b).reg r = if r = q then b else s.reg r := by
  unfold State.reg State.setReg
  simp only [Vector.getElem_set, BitVec.toNat_inj]
  by_cases h : r = q
  · simp [h]
  · rw [if_neg (fun e => h e.symm), if_neg h]

@[simp] theorem State.reg_setReg_same (s : State) (r : Reg) (b : Byte) : (s.setReg r b).reg r = b := by
  simp [State.reg_setReg]

@[simp] theorem State.reg_setReg_of_ne (s : State) (q r : Reg) (b : Byte) (h : r ≠ q) :
    (s.setReg q b).reg r = s.reg r := by
  simp [State.reg_setReg, h]

/-- Writing back what a register holds changes nothing. -/
@[simp] theorem State.setReg_reg_self (s : State) (r : Reg) : s.setReg r (s.reg r) = s := by
  unfold State.reg State.setReg
  simp

/-- `V[r]` depends on the register file alone. -/
theorem State.reg_congr {s t : State} (h : t.v = s.v) (r : Reg) : t.reg r = s.reg r := by
  unfold State.reg
  simp [h]

end Sys2Proof.Machine
end

