-- ==== Sys2Proof/Laws/Ops.lean ====
section
/-! SUPPORT. What each shared operation can do, once: answers, skips, fetch, the stack controller, the framebuffer
primitives, the timers. -/

namespace Sys2Proof.Machine

/-! ### Answers -/

@[simp] theorem Result.andThen_next (s : State) (f : State → State) :
    Result.andThen (.next s) f = .next (f s) := rfl

/-- An answer carried on is a next state only if it was one. -/
theorem Result.andThen_eq_next {r : Result} {f : State → State} {t : State} :
    r.andThen f = .next t ↔ ∃ u, r = .next u ∧ t = f u := by
  cases r <;> simp [Result.andThen, eq_comm]

/-! ### The fetch (R203) -/

theorem State.fetch_eq_none {s : State} : s.fetch = none ↔ s.pc.toNat + 1 > 0xFFF := by
  unfold State.fetch; split <;> simp_all

theorem State.fetch_of_le (s : State) (h : s.pc.toNat + 1 ≤ 0xFFF) :
    s.fetch = some (wordOfBytes (s.mem.read s.pc.toNat) (s.mem.read (s.pc.toNat + 1))) := by
  unfold State.fetch; rw [if_neg (by omega)]

/-- The fetch depends on `PC` and memory alone. -/
theorem State.fetch_congr {s t : State} (hp : t.pc = s.pc) (hm : t.mem = s.mem) : t.fetch = s.fetch := by
  unfold State.fetch; rw [hp, hm]

/-! ### The stack controller (R100, R101) -/

theorem byte_toNat_add_one {b : Byte} (h : b.toNat < 16) : (b + 1).toNat = b.toNat + 1 := by
  rw [BitVec.toNat_add]
  have : (1 : Byte).toNat = 1 := rfl
  omega

theorem byte_toNat_sub_one {b : Byte} (h : b ≠ 0) : (b - 1).toNat = b.toNat - 1 := by
  have h0 : b.toNat ≠ 0 := fun e => h (BitVec.eq_of_toNat_eq e)
  rw [BitVec.toNat_sub]
  have : (1 : Byte).toNat = 1 := rfl
  omega

/-- Everything `Push` can do. -/
theorem State.push_cases (s : State) (a : Word) :
    (s.sp = 16 ∧ s.push a = .refusedWith .stackOverflow) ∨
    (∃ h : s.sp.toNat < 16,
      s.push a = .ok (s.setStack (s.stack.set s.sp.toNat a) (s.sp + 1)) a) ∨
    (16 < s.sp.toNat ∧ s.push a = .illegal) := by
  unfold State.push
  by_cases h : s.sp = 16
  · exact .inl ⟨h, by rw [if_pos h]⟩
  · rw [if_neg h]
    by_cases h' : s.sp.toNat < 16
    · exact .inr (.inl ⟨h', by rw [dif_pos h']⟩)
    · have : s.sp.toNat ≠ 16 := fun e => h (BitVec.eq_of_toNat_eq e)
      exact .inr (.inr ⟨by omega, by rw [dif_neg h']⟩)

/-- Everything `Pop` can do. -/
theorem State.pop_cases (s : State) :
    (s.sp = 0 ∧ s.pop = .refusedWith .stackUnderflow) ∨
    (∃ h : s.sp.toNat - 1 < 16,
      s.sp ≠ 0 ∧ s.pop = .ok (s.setStack s.stack (s.sp - 1)) s.stack[s.sp.toNat - 1]) ∨
    (16 < s.sp.toNat ∧ s.pop = .illegal) := by
  unfold State.pop
  by_cases h : s.sp = 0
  · exact .inl ⟨h, by rw [if_pos h]⟩
  · rw [if_neg h]
    by_cases h' : s.sp.toNat - 1 < 16
    · exact .inr (.inl ⟨h', h, by rw [dif_pos h']⟩)
    · exact .inr (.inr ⟨by omega, by rw [dif_neg h']⟩)

/-- A pushed value is the newest live return address. -/
theorem take_set_succ (l : Vector Word 16) (n : Nat) (h : n < 16) (a : Word) :
    (l.set n a).toList.take (n + 1) = l.toList.take n ++ [a] := by
  rw [List.take_add_one, Vector.toList_set, List.take_set_of_le (Nat.le_refl n)]
  simp [h]

/-- The newest live return address is the one below `SP`. -/
theorem take_pred_append (l : Vector Word 16) (n : Nat) (h : n - 1 < 16) (hn : 0 < n) :
    l.toList.take (n - 1) ++ [l[n - 1]] = l.toList.take n := by
  obtain ⟨k, rfl⟩ : ∃ k, n = k + 1 := ⟨n - 1, by omega⟩
  have hk : k < 16 := by omega
  rw [List.take_add_one]
  simp [hk]

/-- With `SP = 0` no return address is live. -/
theorem State.live_of_sp_zero {s : State} (h : s.sp = 0) : s.live = [] := by
  unfold State.live; rw [h]; rfl

/-- Every general register is zero at reset (R26). -/
theorem State.reset_reg (r : Reg) : State.reset.reg r = 0 := by
  unfold State.reg State.reset; simp

/-! ### The framebuffer primitives (R161 to R163) -/

theorem inScreen_iff {x y : Nat} : inScreen x y = true ↔ x ≤ 63 ∧ y ≤ 31 := by simp [inScreen]

/-- Out of range, a cell reads as off (R161). -/
theorem fbGet_of_not_inScreen (f : FrameBuffer) (x y : Nat) (h : ¬ (x ≤ 63 ∧ y ≤ 31)) : fbGet f x y = false := by
  unfold fbGet; rw [if_neg (by rwa [inScreen_iff])]

@[simp] theorem fbGet_clear (x y : Nat) : fbGet fbClear x y = false := by
  unfold fbGet fbClear; split <;> simp

/-- A cell after a set: the cell set, if it exists; every other cell alone (R161, R162). -/
theorem fbGet_fbSet (f : FrameBuffer) (x y : Nat) (b : Bool) (x' y' : Nat) :
    fbGet (fbSet f x y b) x' y' = if x' = x ∧ y' = y ∧ x ≤ 63 ∧ y ≤ 31 then b else fbGet f x' y' := by
  by_cases h : x ≤ 63 ∧ y ≤ 31
  · by_cases h' : x' ≤ 63 ∧ y' ≤ 31
    · have key : (y * 64 + x = y' * 64 + x') ↔ (x' = x ∧ y' = y) := by omega
      have hlt : y' * 64 + x' < 2048 := by omega
      have hlt' : y * 64 + x < 2048 := by omega
      unfold fbGet fbSet
      simp only [inScreen_iff.2 h, inScreen_iff.2 h', if_true]
      by_cases e : x' = x ∧ y' = y
      · obtain ⟨rfl, rfl⟩ := e
        cases b <;> simp [h, hlt]
      · have hne : ¬ y' * 64 + x' = y * 64 + x := fun k => e (key.1 k.symm)
        rw [if_neg (c := x' = x ∧ y' = y ∧ x ≤ 63 ∧ y ≤ 31) (fun k => e ⟨k.1, k.2.1⟩)]
        cases b <;> simp [hne, hlt]
    · rw [fbGet_of_not_inScreen _ _ _ h', fbGet_of_not_inScreen _ _ _ h', if_neg]
      rintro ⟨rfl, rfl, hs⟩; exact h' hs
  · unfold fbSet
    rw [if_neg (by rwa [inScreen_iff]), if_neg (fun k => h k.2.2)]

/-! ### Timers (R187) -/

theorem countDown_toNat (t : Byte) : (countDown t).toNat = t.toNat - 1 := by
  unfold countDown
  split
  · rename_i h; subst h; rfl
  · rename_i h; exact byte_toNat_sub_one h

theorem countDownTimes_toNat (n : Nat) (t : Byte) : (countDownTimes n t).toNat = t.toNat - n := by
  induction n generalizing t with
  | zero => rfl
  | succ n ih => rw [countDownTimes, ih, countDown_toNat]; omega

@[simp] theorem State.tickTimes_zero (s : State) : s.tickTimes 0 = s := rfl

/-- `n + 1` ticks are one tick and then `n` (R187). -/
theorem State.tickTimes_succ (s : State) (n : Nat) : s.tickTimes (n + 1) = s.tick.tickTimes n := rfl

end Sys2Proof.Machine
end

