-- ==== Sys2Proof/Laws/Frame.lean ====
section
/-! SUPPORT. The frame of each named update, once: what it may change, and that it keeps everything else. -/

namespace Sys2Proof.Machine

/-- The live return addresses depend on the stack and its pointer alone. -/
theorem State.live_congr {s t : State} (hs : t.stack = s.stack) (hp : t.sp = s.sp) : t.live = s.live := by
  unfold State.live; rw [hs, hp]

/-- A frame holds of a state and itself. -/
theorem KeepsAllBut.refl (regs : Reg → Prop) (parts : List Part) (s : State) : KeepsAllBut regs parts s s :=
  ⟨fun _ _ => rfl, fun p _ => by cases p <;> simp [Part.kept]⟩

/-- A part kept twice is kept. -/
theorem Part.kept_trans {p : Part} {s t u : State} (h : p.kept s t) (h' : p.kept t u) : p.kept s u := by
  cases p <;> simp_all [Part.kept]

/-- Frames compose. -/
theorem KeepsAllBut.trans {regs : Reg → Prop} {parts : List Part} {s t u : State}
    (h : KeepsAllBut regs parts s t) (h' : KeepsAllBut regs parts t u) : KeepsAllBut regs parts s u :=
  ⟨fun r hr => (h'.1 r hr).trans (h.1 r hr), fun p hp => Part.kept_trans (h.2 p hp) (h'.2 p hp)⟩

/-- A frame may be widened. -/
theorem KeepsAllBut.mono {regs regs' : Reg → Prop} {parts parts' : List Part} {s t : State}
    (h : KeepsAllBut regs parts s t) (hr : ∀ r, regs r → regs' r) (hp : ∀ p, p ∈ parts → p ∈ parts') :
    KeepsAllBut regs' parts' s t :=
  ⟨fun r k => h.1 r fun e => k (hr r e), fun p k => h.2 p fun e => k (hp p e)⟩

theorem keeps_setReg (s : State) (x : Reg) (b : Byte) : KeepsAllBut (· = x) [] s (s.setReg x b) :=
  ⟨fun r h => by simp [h], fun p _ => by cases p <;> simp [Part.kept, State.live]⟩

theorem keeps_setPc (s : State) (a : Word) : KeepsAllBut noReg [.pc] s (s.setPc a) :=
  ⟨fun _ _ => rfl, fun p hp => by cases p <;> simp_all [Part.kept, State.live]⟩

theorem keeps_advance (s : State) : KeepsAllBut noReg [.pc] s s.advance :=
  ⟨fun _ _ => rfl, fun p hp => by cases p <;> simp_all [Part.kept, State.live]⟩

theorem keeps_skipIf (s : State) (c : Bool) : KeepsAllBut noReg [.pc] s (s.skipIf c) :=
  ⟨fun _ _ => rfl, fun p hp => by cases p <;> simp_all [Part.kept, State.live]⟩

theorem keeps_setI (s : State) (a : Word) : KeepsAllBut noReg [.index] s (s.setI a) :=
  ⟨fun _ _ => rfl, fun p hp => by cases p <;> simp_all [Part.kept, State.live]⟩

theorem keeps_setMem (s : State) (m : Memory) : KeepsAllBut noReg [.memory] s (s.setMem m) :=
  ⟨fun _ _ => rfl, fun p hp => by cases p <;> simp_all [Part.kept, State.live]⟩

theorem keeps_setFb (s : State) (f : FrameBuffer) : KeepsAllBut noReg [.screen] s (s.setFb f) :=
  ⟨fun _ _ => rfl, fun p hp => by cases p <;> simp_all [Part.kept, State.live]⟩

theorem keeps_setStack (s : State) (l : Vector Word 16) (b : Byte) : KeepsAllBut noReg [.stack] s (s.setStack l b) :=
  ⟨fun _ _ => rfl, fun p hp => by cases p <;> simp_all [Part.kept]⟩

theorem keeps_setDt (s : State) (b : Byte) : KeepsAllBut noReg [.delay] s (s.setDt b) :=
  ⟨fun _ _ => rfl, fun p hp => by cases p <;> simp_all [Part.kept, State.live]⟩

theorem keeps_setSt (s : State) (b : Byte) : KeepsAllBut noReg [.sound] s (s.setSt b) :=
  ⟨fun _ _ => rfl, fun p hp => by cases p <;> simp_all [Part.kept, State.live]⟩

theorem keeps_setRun (s : State) (r : RunState) : KeepsAllBut noReg [.run] s (s.setRun r) :=
  ⟨fun _ _ => rfl, fun p hp => by cases p <;> simp_all [Part.kept, State.live]⟩

theorem keeps_setOutcome (s : State) (o : StepOutcome) : KeepsAllBut noReg [.outcome] s (s.setOutcome o) :=
  ⟨fun _ _ => rfl, fun p hp => by cases p <;> simp_all [Part.kept, State.live]⟩

/-- Taking a fatal error changes the run state and the outcome (R206, R207). -/
theorem keeps_raiseFatal (s : State) (k : FatalKind) : KeepsAllBut noReg [.run, .outcome] s (s.raiseFatal k) :=
  ⟨fun _ _ => rfl, fun p hp => by cases p <;> simp_all [Part.kept, State.live]⟩

/-- A report changes the outcome (R208). -/
theorem keeps_report (s : State) (k : ReportKind) : KeepsAllBut noReg [.outcome] s (s.report k) :=
  ⟨fun _ _ => rfl, fun p hp => by cases p <;> simp_all [Part.kept, State.live]⟩

theorem keeps_tick (s : State) : KeepsAllBut noReg [.delay, .sound] s s.tick :=
  ⟨fun _ _ => rfl, fun p hp => by cases p <;> simp_all [Part.kept, State.live]⟩

theorem keeps_tickTimes (s : State) (n : Nat) : KeepsAllBut noReg [.delay, .sound] s (s.tickTimes n) :=
  ⟨fun _ _ => rfl, fun p hp => by cases p <;> simp_all [Part.kept, State.live]⟩

theorem keeps_withInputs (s : State) (keys : Config.Keys) (b : Byte) :
    KeepsAllBut noReg [.outcome, .inputs] s (s.withInputs keys b) :=
  ⟨fun _ _ => rfl, fun p hp => by cases p <;> simp_all [Part.kept, State.live]⟩

theorem keeps_drawInputs (s : State) : KeepsAllBut noReg [.inputs] s s.drawInputs :=
  ⟨fun _ _ => rfl, fun p hp => by cases p <;> simp_all [Part.kept, State.live]⟩

end Sys2Proof.Machine
end

