-- ==== Sys2Proof/Laws/Operands.lean ====
section
/-! SUPPORT. What the operand forms compute: the register ranges, the decimal digits, the key queries, the
sprite by pixel, by row and whole. -/

namespace Sys2Proof.Machine

/-! ### `V[0..x]` to memory and back (R144, R145) -/

theorem wf_storeRange (v : Vector Byte 16) (a n : Nat) (m : Memory) (hm : m.wf = true) : (storeRange v a n m).wf = true := by
  induction n with
  | zero => exact hm
  | succ n ih => exact Memory.wf_write _ ih _ _

/-- Outside the stored bytes, memory reads as before. -/
theorem read_storeRange_outside (v : Vector Byte 16) (a n : Nat) (m : Memory) (a' : Nat) (h : a' < a ∨ a + n ≤ a') :
    (storeRange v a n m).read a' = m.read a' := by
  induction n with
  | zero => rfl
  | succ n ih => rw [storeRange, Memory.read_write_of_ne _ _ _ _ (by omega), ih (by omega)]

/-- Inside the stored bytes, memory holds the registers in order. -/
theorem read_storeRange_inside (v : Vector Byte 16) (a n : Nat) (m : Memory) (hm : m.wf = true) (hn : n ≤ 16)
    (hfit : a + n ≤ Config.memSize) (k : Nat) (hk : k < n) :
    (storeRange v a n m).read (a + k) = v[k]'(by omega) := by
  induction n with
  | zero => omega
  | succ n ih =>
    rw [storeRange, Memory.read_write _ (wf_storeRange v a n m hm)]
    by_cases e : k = n
    · subst e
      rw [if_pos ⟨rfl, by omega⟩, Vector.getElem?_eq_getElem (by omega)]
      rfl
    · rw [if_neg (by omega)]
      exact ih (by omega) (by omega) (by omega)

/-- Register `k` after a load of `n` registers from address `a`. -/
theorem getElem_loadRange (m : Memory) (a n : Nat) (v : Vector Byte 16) (k : Nat) (hk : k < 16) :
    (loadRange m a n v)[k] = if k < n then m.read (a + k) else v[k] := by
  induction n with
  | zero => simp [loadRange]
  | succ n ih =>
    rw [loadRange, Vector.getElem_setIfInBounds, ih]
    by_cases e : n = k
    · subst e; simp
    · rw [if_neg e]
      by_cases h : k < n
      · rw [if_pos h, if_pos (by omega)]
      · rw [if_neg h, if_neg (by omega)]

/-! ### Decimal digits (R143) -/

theorem hundreds_toNat (b : Byte) : (hundreds b).toNat = b.toNat / 100 := by
  have := b.isLt; unfold hundreds; rw [BitVec.toNat_ofNat]; omega

theorem tens_toNat (b : Byte) : (tens b).toNat = b.toNat / 10 % 10 := by
  unfold tens; rw [BitVec.toNat_ofNat]; omega

theorem units_toNat (b : Byte) : (units b).toNat = b.toNat % 10 := by
  unfold units; rw [BitVec.toNat_ofNat]; omega

theorem wf_storeDigits (b : Byte) (a : Nat) (m : Memory) (hm : m.wf = true) : (storeDigits b a m).wf = true :=
  Memory.wf_write _ (Memory.wf_write _ (Memory.wf_write _ hm _ _) _ _) _ _

theorem read_storeDigits_outside (b : Byte) (a : Nat) (m : Memory) (a' : Nat) (h : a' < a ∨ a + 3 ≤ a') :
    (storeDigits b a m).read a' = m.read a' := by
  unfold storeDigits
  rw [Memory.read_write_of_ne _ _ _ _ (by omega), Memory.read_write_of_ne _ _ _ _ (by omega),
    Memory.read_write_of_ne _ _ _ _ (by omega)]

/-! ### Keys (R180, R183) -/

theorem keyDown_of_lt (keys : Config.Keys) (k : Byte) (h : k.toNat < 16) : keyDown keys k = keys[k.toNat] := by
  unfold keyDown; rw [dif_pos h]

theorem keyDown_of_ge (keys : Config.Keys) (k : Byte) (h : 16 ≤ k.toNat) : keyDown keys k = false := by
  unfold keyDown; rw [dif_neg (by omega)]

/-- No key is delivered when none is down. -/
theorem leastKeyDown_eq_none {keys : Config.Keys} : leastKeyDown keys = none ↔ ∀ k : Byte, keyDown keys k = false := by
  unfold leastKeyDown
  rw [List.find?_eq_none]
  constructor
  · intro h k
    by_cases hk : k.toNat < 16
    · have := h k (List.mem_map.2 ⟨k.toNat, by simpa using hk, by simp⟩)
      simpa using this
    · exact keyDown_of_ge keys k (by omega)
  · intro h k _; simp [h k]

/-- The least key down is the one delivered. -/
theorem leastKeyDown_eq_some (keys : Config.Keys) (k : Fin 16) (h : keys[k] = true)
    (hl : ∀ j : Fin 16, j < k → keys[j] = false) : leastKeyDown keys = some (BitVec.ofNat 8 k.val) := by
  unfold leastKeyDown
  rw [List.find?_eq_some_iff_append]
  refine ⟨?_, (List.range k.val).map (BitVec.ofNat 8), ((List.range 16).drop (k.val + 1)).map (BitVec.ofNat 8), ?_, ?_⟩
  · rw [keyDown_of_lt _ _ (by simp; omega)]
    have : (BitVec.ofNat 8 k.val).toNat = k.val := by simp; omega
    simpa [this] using h
  · clear h hl; revert k; decide
  · intro a ha
    simp at ha
    obtain ⟨j, hj, rfl⟩ := ha
    have e : (BitVec.ofNat 8 j).toNat = j := by simp; omega
    rw [keyDown_of_lt _ _ (by omega)]
    simpa [e] using hl ⟨j, by omega⟩ hj

/-! ### One pixel and one row of a sprite (R166) -/

/-- A pixel XORs its bit into its cell, if that exists. -/
theorem fbGet_drawPixel (px py : Nat) (bit : Bool) (d : FrameBuffer × Byte) (cx cy : Nat) :
    fbGet (drawPixel px py bit d).1 cx cy =
      (fbGet d.1 cx cy ^^ (decide (cx = px ∧ cy = py ∧ cx ≤ 63 ∧ cy ≤ 31) && bit)) := by
  unfold drawPixel
  simp only [fbGet_fbSet]
  by_cases h : cx = px ∧ cy = py ∧ px ≤ 63 ∧ py ≤ 31
  · obtain ⟨rfl, rfl, hx, hy⟩ := h; simp [hx, hy]
  · rw [if_neg h, decide_eq_false (by rintro ⟨rfl, rfl, hs⟩; exact h ⟨rfl, rfl, hs⟩)]; simp

/-- The first `b` columns of a row XOR its bits into their cells, where those exist. -/
theorem fbGet_drawRow (row : Byte) (x py b : Nat) (d : FrameBuffer × Byte) (cx cy : Nat) :
    fbGet (drawRow row x py b d).1 cx cy =
      (fbGet d.1 cx cy ^^
        (decide (x ≤ cx ∧ cx < x + b ∧ cy = py ∧ cx ≤ 63 ∧ cy ≤ 31) && row.getLsbD (7 - (cx - x)))) := by
  induction b with
  | zero => rw [decide_eq_false (by omega)]; simp [drawRow]
  | succ b ih =>
    rw [drawRow, fbGet_drawPixel, ih]
    by_cases e : cx = x + b
    · subst e
      rw [decide_eq_false (p := x ≤ x + b ∧ x + b < x + b ∧ _) (by omega)]
      simp
    · rw [decide_eq_false (p := cx = x + b ∧ _) (fun k => e k.1)]
      have : (x ≤ cx ∧ cx < x + b ∧ cy = py ∧ cx ≤ 63 ∧ cy ≤ 31) ↔
          (x ≤ cx ∧ cx < x + (b + 1) ∧ cy = py ∧ cx ≤ 63 ∧ cy ≤ 31) := by omega
      simp [this]

/-- `VF` after a pixel: 1 if it ended off. -/
theorem drawPixel_flag (px py : Nat) (bit : Bool) (d : FrameBuffer × Byte) :
    (drawPixel px py bit d).2 = flagByte (!(fbGet d.1 px py ^^ bit)) := rfl

/-- `VF` after a whole row: the complement of its last pixel, in range or not (R166, D16). -/
theorem drawRow_flag (row : Byte) (x py : Nat) (d : FrameBuffer × Byte) :
    (drawRow row x py 8 d).2 = if (fbGet d.1 (x + 7) py ^^ row.getLsbD 0) then 0 else 1 := by
  rw [drawRow, drawPixel_flag, fbGet_drawRow, decide_eq_false (by omega)]
  simp [flagByte]

/-! ### The whole sprite (R166) -/

/-- The first `n` rows XOR their bits into the cells of the screen, each once. -/
theorem fbGet_drawRows (m : Memory) (a x y n : Nat) (d : FrameBuffer × Byte) (cx cy : Nat) (h : cx ≤ 63) (h' : cy ≤ 31) :
    fbGet (drawRows m a x y n d).1 cx cy =
      (fbGet d.1 cx cy ^^ (decide (x ≤ cx ∧ cx < x + 8 ∧ y ≤ cy ∧ cy < y + n) &&
        (m.read (a + (cy - y))).getLsbD (7 - (cx - x)))) := by
  induction n with
  | zero => rw [decide_eq_false (by omega)]; simp [drawRows]
  | succ n ih =>
    rw [drawRows, fbGet_drawRow, ih]
    by_cases e : cy = y + n
    · subst e
      rw [decide_eq_false (p := x ≤ cx ∧ cx < x + 8 ∧ y ≤ y + n ∧ _) (by omega)]
      simp [h, h']
    · rw [decide_eq_false (p := x ≤ cx ∧ cx < x + 8 ∧ cy = _ ∧ _) (by omega)]
      have : (x ≤ cx ∧ cx < x + 8 ∧ y ≤ cy ∧ cy < y + n) ↔ (x ≤ cx ∧ cx < x + 8 ∧ y ≤ cy ∧ cy < y + (n + 1)) := by omega
      simp [this]

/-- The rows from `y + n` on are not yet touched by the first `n`. -/
theorem fbGet_drawRows_below (m : Memory) (a x y n : Nat) (d : FrameBuffer × Byte) (cx cy : Nat) (h : y + n ≤ cy) :
    fbGet (drawRows m a x y n d).1 cx cy = fbGet d.1 cx cy := by
  by_cases h2 : cx ≤ 63 ∧ cy ≤ 31
  · rw [fbGet_drawRows _ _ _ _ _ _ _ _ h2.1 h2.2, decide_eq_false (by omega)]; simp
  · rw [fbGet_of_not_inScreen _ _ _ h2, fbGet_of_not_inScreen _ _ _ h2]

/-- `VF` after the sprite: the complement of the last pixel of the last row, as the screen was before. -/
theorem drawRows_flag (m : Memory) (a x y n : Nat) (d : FrameBuffer × Byte) :
    (drawRows m a x y (n + 1) d).2 =
      if (fbGet d.1 (x + 7) (y + n) ^^ (m.read (a + n)).getLsbD 0) then 0 else 1 := by
  rw [drawRows, drawRow_flag, fbGet_drawRows_below _ _ _ _ _ _ _ _ (by omega)]

end Sys2Proof.Machine
end

