-- ==== Sys2Proof/Laws/PerInstr.lean ====
section
/-! SUPPORT. A statement about every instruction as syntax, one lemma for each constructor: the encoded word matches the
instruction's own row of the opcode map (spec/30_encoding.md R63). -/

namespace Sys2Proof.Laws.MatchesRow

/-- The word of `i` matches the row of the opcode map that bears the mnemonic of `i`. -/
def Statement (i : Instr) : Prop :=
  ∃ r ∈ opcodeTable, r.mnemonic = i.mnemonic ∧ r.fits (encode i) = true

/-- To show it, name the pattern and the mask, and mask the word. -/
theorem of_and (i : Instr) (p m : Word) (hmem : ⟨i.mnemonic, p, m⟩ ∈ opcodeTable) (h : encode i &&& m = p) :
    Statement i :=
  ⟨_, hmem, rfl, by simp [Row.fits, h]⟩

theorem nibble_and_all (c : BitVec 4) : c &&& 15#4 = c := BitVec.and_allOnes

theorem byte_and_all (b : BitVec 8) : b &&& 255#8 = b := BitVec.and_allOnes

/-- The mask of format `XKK` with the group alone fixed. -/
theorem mask_group (c : Nibble) (x : Reg) (kk : Byte) : wordXkk c x kk &&& 0xF000 = wordXkk c 0 0 := by
  rw [show (0xF000 : Word) = wordXkk 0xF 0 0 from rfl, wordXkk_and]; simp [nibble_and_all]

/-- The mask of format `ADDR`. -/
theorem mask_addr (c : Nibble) (nnn : Addr) : wordAddr c nnn &&& 0xF000 = wordAddr c 0 := by
  rw [show (0xF000 : Word) = wordAddr 0xF 0 from rfl, wordAddr_and]; simp [nibble_and_all]

/-- The mask of format `XSUB`. -/
theorem mask_xsub (c : Nibble) (x : Reg) (kk : Byte) : wordXkk c x kk &&& 0xF0FF = wordXkk c 0 kk := by
  rw [show (0xF0FF : Word) = wordXkk 0xF 0 0xFF from rfl, wordXkk_and]; simp [nibble_and_all, byte_and_all]

/-- The mask of format `XY`. -/
theorem mask_xy (c : Nibble) (x y : Reg) (n : Nibble) : wordXyn c x y n &&& 0xF00F = wordXyn c 0 0 n := by
  rw [show (0xF00F : Word) = wordXyn 0xF 0 0 0xF from rfl, wordXyn_and]; simp [nibble_and_all]

/-- The mask of format `XYN`. -/
theorem mask_xyn (c : Nibble) (x y : Reg) (n : Nibble) : wordXyn c x y n &&& 0xF000 = wordXyn c 0 0 0 := by
  rw [show (0xF000 : Word) = wordXyn 0xF 0 0 0 from rfl, wordXyn_and]; simp [nibble_and_all]

theorem cls : Statement .cls :=
  of_and _ 0x00E0 0xFFFF (by simp [opcodeTable, Instr.mnemonic]) rfl

theorem ret : Statement .ret :=
  of_and _ 0x00EE 0xFFFF (by simp [opcodeTable, Instr.mnemonic]) rfl

theorem jp (nnn : Addr) : Statement (.jp nnn) :=
  of_and _ 0x1000 0xF000 (by simp [opcodeTable, Instr.mnemonic]) (mask_addr _ _)

theorem call (nnn : Addr) : Statement (.call nnn) :=
  of_and _ 0x2000 0xF000 (by simp [opcodeTable, Instr.mnemonic]) (mask_addr _ _)

theorem seImm (x : Reg) (kk : Byte) : Statement (.seImm x kk) :=
  of_and _ 0x3000 0xF000 (by simp [opcodeTable, Instr.mnemonic]) (mask_group _ _ _)

theorem sneImm (x : Reg) (kk : Byte) : Statement (.sneImm x kk) :=
  of_and _ 0x4000 0xF000 (by simp [opcodeTable, Instr.mnemonic]) (mask_group _ _ _)

theorem seReg (x y : Reg) : Statement (.seReg x y) :=
  of_and _ 0x5000 0xF00F (by simp [opcodeTable, Instr.mnemonic]) (mask_xy _ _ _ _)

theorem ldImm (x : Reg) (kk : Byte) : Statement (.ldImm x kk) :=
  of_and _ 0x6000 0xF000 (by simp [opcodeTable, Instr.mnemonic]) (mask_group _ _ _)

theorem addImm (x : Reg) (kk : Byte) : Statement (.addImm x kk) :=
  of_and _ 0x7000 0xF000 (by simp [opcodeTable, Instr.mnemonic]) (mask_group _ _ _)

theorem ldReg (x y : Reg) : Statement (.ldReg x y) :=
  of_and _ 0x8000 0xF00F (by simp [opcodeTable, Instr.mnemonic]) (mask_xy _ _ _ _)

theorem orReg (x y : Reg) : Statement (.orReg x y) :=
  of_and _ 0x8001 0xF00F (by simp [opcodeTable, Instr.mnemonic]) (mask_xy _ _ _ _)

theorem andReg (x y : Reg) : Statement (.andReg x y) :=
  of_and _ 0x8002 0xF00F (by simp [opcodeTable, Instr.mnemonic]) (mask_xy _ _ _ _)

theorem xorReg (x y : Reg) : Statement (.xorReg x y) :=
  of_and _ 0x8003 0xF00F (by simp [opcodeTable, Instr.mnemonic]) (mask_xy _ _ _ _)

theorem addReg (x y : Reg) : Statement (.addReg x y) :=
  of_and _ 0x8004 0xF00F (by simp [opcodeTable, Instr.mnemonic]) (mask_xy _ _ _ _)

theorem subReg (x y : Reg) : Statement (.subReg x y) :=
  of_and _ 0x8005 0xF00F (by simp [opcodeTable, Instr.mnemonic]) (mask_xy _ _ _ _)

theorem shr (x y : Reg) : Statement (.shr x y) :=
  of_and _ 0x8006 0xF00F (by simp [opcodeTable, Instr.mnemonic]) (mask_xy _ _ _ _)

theorem subn (x y : Reg) : Statement (.subn x y) :=
  of_and _ 0x8007 0xF00F (by simp [opcodeTable, Instr.mnemonic]) (mask_xy _ _ _ _)

theorem shl (x y : Reg) : Statement (.shl x y) :=
  of_and _ 0x800E 0xF00F (by simp [opcodeTable, Instr.mnemonic]) (mask_xy _ _ _ _)

theorem sneReg (x y : Reg) : Statement (.sneReg x y) :=
  of_and _ 0x9000 0xF00F (by simp [opcodeTable, Instr.mnemonic]) (mask_xy _ _ _ _)

theorem ldI (nnn : Addr) : Statement (.ldI nnn) :=
  of_and _ 0xA000 0xF000 (by simp [opcodeTable, Instr.mnemonic]) (mask_addr _ _)

theorem jpV0 (nnn : Addr) : Statement (.jpV0 nnn) :=
  of_and _ 0xB000 0xF000 (by simp [opcodeTable, Instr.mnemonic]) (mask_addr _ _)

theorem rnd (x : Reg) (kk : Byte) : Statement (.rnd x kk) :=
  of_and _ 0xC000 0xF000 (by simp [opcodeTable, Instr.mnemonic]) (mask_group _ _ _)

theorem drw (x y : Reg) (n : Nibble) : Statement (.drw x y n) :=
  of_and _ 0xD000 0xF000 (by simp [opcodeTable, Instr.mnemonic]) (mask_xyn _ _ _ _)

theorem skp (x : Reg) : Statement (.skp x) :=
  of_and _ 0xE09E 0xF0FF (by simp [opcodeTable, Instr.mnemonic]) (mask_xsub _ _ _)

theorem sknp (x : Reg) : Statement (.sknp x) :=
  of_and _ 0xE0A1 0xF0FF (by simp [opcodeTable, Instr.mnemonic]) (mask_xsub _ _ _)

theorem ldVxDt (x : Reg) : Statement (.ldVxDt x) :=
  of_and _ 0xF007 0xF0FF (by simp [opcodeTable, Instr.mnemonic]) (mask_xsub _ _ _)

theorem ldVxK (x : Reg) : Statement (.ldVxK x) :=
  of_and _ 0xF00A 0xF0FF (by simp [opcodeTable, Instr.mnemonic]) (mask_xsub _ _ _)

theorem ldDtVx (x : Reg) : Statement (.ldDtVx x) :=
  of_and _ 0xF015 0xF0FF (by simp [opcodeTable, Instr.mnemonic]) (mask_xsub _ _ _)

theorem ldStVx (x : Reg) : Statement (.ldStVx x) :=
  of_and _ 0xF018 0xF0FF (by simp [opcodeTable, Instr.mnemonic]) (mask_xsub _ _ _)

theorem addI (x : Reg) : Statement (.addI x) :=
  of_and _ 0xF01E 0xF0FF (by simp [opcodeTable, Instr.mnemonic]) (mask_xsub _ _ _)

theorem ldF (x : Reg) : Statement (.ldF x) :=
  of_and _ 0xF029 0xF0FF (by simp [opcodeTable, Instr.mnemonic]) (mask_xsub _ _ _)

theorem ldB (x : Reg) : Statement (.ldB x) :=
  of_and _ 0xF033 0xF0FF (by simp [opcodeTable, Instr.mnemonic]) (mask_xsub _ _ _)

theorem stRegs (x : Reg) : Statement (.stRegs x) :=
  of_and _ 0xF055 0xF0FF (by simp [opcodeTable, Instr.mnemonic]) (mask_xsub _ _ _)

theorem ldRegs (x : Reg) : Statement (.ldRegs x) :=
  of_and _ 0xF065 0xF0FF (by simp [opcodeTable, Instr.mnemonic]) (mask_xsub _ _ _)

end Sys2Proof.Laws.MatchesRow
end

