-- ==== Sys2Proof/Laws/Step.lean ====
section
/-! SUPPORT. What a step can do, once, by run state (spec/60_exceptions.md R200): later proofs cite these and do not unfold
the step. -/

namespace Sys2Proof.Machine

/-- A step in `FAULTED(K)` (R213). -/
theorem State.stepWith_faulted {s : State} {k : FatalKind} (h : s.run = .faulted k) (keys : Config.Keys) (b : Byte) :
    s.stepWith keys b = .next ((s.withInputs keys b).setOutcome (.fatal k)) := by
  simp [State.stepWith, h]

/-- A step in `AWAITING_KEY(x)` (R183). -/
theorem State.stepWith_awaiting {s : State} {x : Reg} (h : s.run = .awaitingKey x) (keys : Config.Keys) (b : Byte) :
    s.stepWith keys b = .next ((s.withInputs keys b).waitForKey x) := by
  simp [State.stepWith, h]

/-- A step in `READY` (R200). -/
theorem State.stepWith_ready {s : State} (h : s.run = .ready) (keys : Config.Keys) (b : Byte) :
    s.stepWith keys b = (s.withInputs keys b).runReady := by
  simp [State.stepWith, h]

/-- The fetch fails: nothing but the run state and the outcome changes (R203, R207). -/
theorem State.runReady_of_not_fetchable {s : State} (h : s.pc.toNat + 1 > 0xFFF) :
    s.runReady = .next (s.raiseFatal .outOfBoundsFetch) := by
  simp [State.runReady, State.fetch_eq_none.2 h]

/-- The fetch succeeds: advance, then decode and execute (R202, R204). -/
theorem State.runReady_of_fetch {s : State} {op : Word} (h : s.fetch = some op) :
    s.runReady = s.advance.execWord op := by
  simp [State.runReady, h]

theorem State.execWord_ok {s : State} {op : Word} {i : Instr} (h : decodeWord op = .ok i) : s.execWord op = exec i s := by
  simp [State.execWord, h]

theorem State.execWord_error {s : State} {op : Word} {e : DecodeError} (h : decodeWord op = .error e) :
    s.execWord op = .next s := by
  simp [State.execWord, h]

/-- Operations one after the other: the first, then the rest from the state it answers. -/
theorem State.performAll_cons_of_next {s t : State} {o : Operation} (rest : List Operation) (h : s.perform o = .next t) :
    s.performAll (o :: rest) = t.performAll rest := by
  simp [State.performAll, h]

/-- A run that starts with `Boot` and then `Reset`, whatever the font and the image, comes to `State.reset` (R233, U19). -/
theorem runOperations_boot_reset (font : Config.Font) (image : List Byte) :
    runOperations [.boot font image, .reset] = .next State.reset := rfl

/-- A run of no step. -/
theorem core_run_zero (s : State) : Host.Core.run Sys2Proof.core 0 s = .next s := rfl

/-- Of any core: a run whose first step answers a next state goes on from there. -/
theorem run_succ_of_next (M : Host.Core) {s t : M.State} (n : Nat) (h : M.step s = .next t) : M.run (n + 1) s = M.run n t := by
  rw [Host.Core.run.eq_def]
  simp only [h]

/-- The same, of this machine's step. -/
theorem core_run_succ {s t : State} (n : Nat) (h : step s = .next t) :
    Host.Core.run Sys2Proof.core (n + 1) s = Host.Core.run Sys2Proof.core n t :=
  run_succ_of_next Sys2Proof.core n h

end Sys2Proof.Machine
end

