-- ==== Sys2Proof/Tests/Slice0.lean ====
section
/-! SUPPORT. The model's own tests: ill-formed opcode maps, one decoded word for each constructor, the spec's test vectors
(spec/95_test_vectors.md, named by their id) on one step each, and for each statement with hypotheses states that meet them. -/

namespace Sys2Proof.Tests

open Sys2Proof Sys2Proof.Machine

/-! ### Well-formedness of the opcode map -/

theorem test_opcode_map_well_formed : tableWellFormed opcodeTable = true := by decide

theorem test_opcode_map_has_34_rows : opcodeTable.length = 34 := by decide

/-- A pattern bit outside the mask. -/
theorem test_ill_formed_row_refused : Row.wellFormed ⟨"5xy0", 0x5001, 0xF000⟩ = false := by decide

theorem test_map_with_ill_formed_row_refused :
    tableWellFormed [⟨"6xkk", 0x6000, 0xF000⟩, ⟨"5xy0", 0x5001, 0xF000⟩] = false := by decide

/-- Two rows that share the word 0x00E0. -/
theorem test_overlapping_rows_refused :
    tableWellFormed [⟨"00E0", 0x00E0, 0xFFFF⟩, ⟨"0nnn", 0x0000, 0xF000⟩] = false := by decide

theorem test_repeated_mnemonic_refused :
    tableWellFormed [⟨"1nnn", 0x1000, 0xF000⟩, ⟨"1nnn", 0x2000, 0xF000⟩] = false := by decide

/-! ### Decoding: for each constructor a word written out from its row of R63 -/

theorem test_decode_cls : decodeWord 0x00E0 = .ok .cls := by decide
theorem test_decode_ret : decodeWord 0x00EE = .ok .ret := by decide
theorem test_decode_jp : decodeWord 0x1234 = .ok (.jp 0x234) := by decide
theorem test_decode_call : decodeWord 0x2ABC = .ok (.call 0xABC) := by decide
theorem test_decode_seImm : decodeWord 0x3A42 = .ok (.seImm 0xA 0x42) := by decide
theorem test_decode_sneImm : decodeWord 0x4B17 = .ok (.sneImm 0xB 0x17) := by decide
theorem test_decode_seReg : decodeWord 0x5AB0 = .ok (.seReg 0xA 0xB) := by decide
theorem test_decode_ldImm : decodeWord 0x6A3C = .ok (.ldImm 0xA 0x3C) := by decide
theorem test_decode_addImm : decodeWord 0x7102 = .ok (.addImm 0x1 0x02) := by decide
theorem test_decode_ldReg : decodeWord 0x8120 = .ok (.ldReg 0x1 0x2) := by decide
theorem test_decode_orReg : decodeWord 0x8341 = .ok (.orReg 0x3 0x4) := by decide
theorem test_decode_andReg : decodeWord 0x8562 = .ok (.andReg 0x5 0x6) := by decide
theorem test_decode_xorReg : decodeWord 0x8783 = .ok (.xorReg 0x7 0x8) := by decide
theorem test_decode_addReg : decodeWord 0x8AB4 = .ok (.addReg 0xA 0xB) := by decide
theorem test_decode_subReg : decodeWord 0x89C5 = .ok (.subReg 0x9 0xC) := by decide
theorem test_decode_shr : decodeWord 0x8DE6 = .ok (.shr 0xD 0xE) := by decide
theorem test_decode_subn : decodeWord 0x8F07 = .ok (.subn 0xF 0x0) := by decide
theorem test_decode_shl : decodeWord 0x812E = .ok (.shl 0x1 0x2) := by decide
theorem test_decode_sneReg : decodeWord 0x9CD0 = .ok (.sneReg 0xC 0xD) := by decide
theorem test_decode_ldI : decodeWord 0xA123 = .ok (.ldI 0x123) := by decide
theorem test_decode_jpV0 : decodeWord 0xB3F7 = .ok (.jpV0 0x3F7) := by decide
theorem test_decode_rnd : decodeWord 0xC30F = .ok (.rnd 0x3 0x0F) := by decide
theorem test_decode_drw : decodeWord 0xD12F = .ok (.drw 0x1 0x2 0xF) := by decide
theorem test_decode_skp : decodeWord 0xE49E = .ok (.skp 0x4) := by decide
theorem test_decode_sknp : decodeWord 0xE5A1 = .ok (.sknp 0x5) := by decide
theorem test_decode_ldVxDt : decodeWord 0xF607 = .ok (.ldVxDt 0x6) := by decide
theorem test_decode_ldVxK : decodeWord 0xF70A = .ok (.ldVxK 0x7) := by decide
theorem test_decode_ldDtVx : decodeWord 0xF815 = .ok (.ldDtVx 0x8) := by decide
theorem test_decode_ldStVx : decodeWord 0xF918 = .ok (.ldStVx 0x9) := by decide
theorem test_decode_addI : decodeWord 0xFA1E = .ok (.addI 0xA) := by decide
theorem test_decode_ldF : decodeWord 0xFB29 = .ok (.ldF 0xB) := by decide
theorem test_decode_ldB : decodeWord 0xFC33 = .ok (.ldB 0xC) := by decide
theorem test_decode_stRegs : decodeWord 0xFD55 = .ok (.stRegs 0xD) := by decide
theorem test_decode_ldRegs : decodeWord 0xFF65 = .ok (.ldRegs 0xF) := by decide

/-- The fields the shift ignores may hold anything (R68). -/
theorem test_decode_shr_any_y : decodeWord 0x81F6 = .ok (.shr 0x1 0xF) := by decide

/-- The unrecognized words that vectors section 2.1 lists, each rejected by its name. -/
theorem test_unrecognized_words :
    ([0x0000, 0x0123, 0x00E1, 0x00EF, 0x00FE, 0x0FFF, 0x5121, 0x512F, 0x9121, 0x8128, 0x8129] ++
      [0x812D, 0x812F, 0xE19F, 0xE1A0, 0xE000, 0xF000, 0xF175, 0xF185, 0xF1FF, 0xF130] : List Word).all
      (fun op => decide (decodeWord op = .error (.unrecognized op))) = true := by decide

/-- The first byte is the high one (R41). -/
theorem test_decode_bytes_big_endian : decode [0x12, 0x34, 0x56] = .ok (.jp 0x234, [0x56]) := by decide

theorem test_decode_one_byte_truncated : decode [0x12] = .error .truncated := by decide

theorem test_decodeTableWord : decodeTableWord 16 0x8AB4 = some (.addReg 0xA 0xB) := by decide

/-! ### One step each, from the spec's vectors -/

/-- No key down. -/
def noKeys : Config.Keys := Vector.replicate 16 false

/-- Keys 7 and 9 down. -/
def keys79 : Config.Keys := (noKeys.set 7 true).set 9 true

/-- All keys down. -/
def allKeys : Config.Keys := Vector.replicate 16 true

/-- `s` after one `Step` on the word `op` placed at its `PC`, with key state `keys` and random byte `b`. -/
def after (op : Word) (s : State) (keys : Config.Keys := noKeys) (b : Byte := 0) : State :=
  match (s.placeWord op).stepWith keys b with
  | .next t    => t
  | .fault _   => State.reset
  | .refused _ => State.reset

/-- The vectors' start state with three registers preset: `V[1]`, `V[2]`, `VF`. -/
def start (v1 v2 vf : Byte) : State := ((State.reset.setReg 1 v1).setReg 2 v2).setReg 0xF vf

/-- The start state with `I` and memory preset. -/
def startAt (i : Word) (m : Memory) : State := (State.reset.setI i).setMem m

/-- The lit cells of the screen, by index `y*64 + x`. -/
def lit (s : State) : List Nat := (List.range 2048).filter (fun k => fbGet s.fb (k % 64) (k / 64))

/-- CF4: an odd target is legal. -/
theorem test_jp : (after 0x1201 State.reset).pc = 0x201 := by decide

/-- CF11: the sum is not masked. -/
theorem test_jpV0 : (after 0xBFFF (State.reset.setReg 0 0xFF)).pc = 0x10FE := by decide

/-- CF5. -/
theorem test_call : let t := after 0x2300 (State.reset.setPc 0x202)
    (t.stack[0], t.sp, t.pc, t.outcome) = (0x204, 1, 0x300, .done) := by decide

/-- CF6. -/
theorem test_call_full : let t := after 0x2300 (State.reset.setStack State.reset.stack 16)
    (t.sp, t.pc, t.run, t.outcome) = (16, 0x202, .ready, .reported .stackOverflow) := by decide

/-- CF9: the last pushed comes first. -/
theorem test_ret : let t := after 0x00EE (State.reset.setStack ((State.reset.stack.set 0 0x400).set 1 0x500) 2)
    (t.sp, t.pc) = (1, 0x500) := by decide

/-- CF8. -/
theorem test_ret_empty : let t := after 0x00EE State.reset
    (t.sp, t.pc, t.run, t.outcome) = (0, 0x202, .ready, .reported .stackUnderflow) := by decide

/-- CF13 and CF14. -/
theorem test_seImm : (after 0x3A42 (State.reset.setReg 0xA 0x42)).pc = 0x204 ∧ (after 0x3A42 (State.reset.setReg 0xA 0x43)).pc = 0x202 := by decide

/-- CF23. -/
theorem test_seImm_past_the_end : (after 0x3000 (State.reset.setPc 0xFFE)).pc = 0x1002 := by decide

/-- CF15 and CF16. -/
theorem test_sneImm : (after 0x4A42 (State.reset.setReg 0xA 0x42)).pc = 0x202 ∧ (after 0x4A42 (State.reset.setReg 0xA 0x43)).pc = 0x204 := by decide

/-- CF17 and CF18. -/
theorem test_seReg : (after 0x5120 (start 7 7 0)).pc = 0x204 ∧ (after 0x5120 (start 7 8 0)).pc = 0x202 := by decide

/-- CF20 and CF21. -/
theorem test_sneReg : (after 0x9120 (start 7 8 0)).pc = 0x204 ∧ (after 0x9120 (start 7 7 0)).pc = 0x202 := by decide

/-- A3: `VF` as a plain destination. -/
theorem test_ldImm : (after 0x6F07 (start 0 0 1)).reg 0xF = 0x07 := by decide

/-- A4: wraps, no flag. -/
theorem test_addImm : let t := after 0x7102 (start 0xFF 0 0x07)
    (t.reg 1, t.reg 0xF) = (0x01, 0x07) := by decide

/-- A7. -/
theorem test_ldReg : let t := after 0x8120 (start 0 0xAB 0)
    (t.reg 1, t.reg 2) = (0xAB, 0xAB) := by decide

/-- A9: no flag (D11). -/
theorem test_orReg : let t := after 0x8121 (start 0xF0 0x0F 0x55)
    (t.reg 1, t.reg 0xF) = (0xFF, 0x55) := by decide

/-- A10: no flag (D11). -/
theorem test_andReg : let t := after 0x8122 (start 0xFC 0x3F 0x55)
    (t.reg 1, t.reg 0xF) = (0x3C, 0x55) := by decide

/-- A11: no flag (D11). -/
theorem test_xorReg : let t := after 0x8123 (start 0xFF 0x0F 0x55)
    (t.reg 1, t.reg 0xF) = (0xF0, 0x55) := by decide

/-- A13 and A16. -/
theorem test_addReg : let t := after 0x8124 (start 0xF0 0x20 0); let u := after 0x8124 (start 0xFF 0 1)
    (t.reg 1, t.reg 0xF, u.reg 1, u.reg 0xF) = (0x10, 1, 0xFF, 0) := by decide

/-- A18 and A21: the flag is written last. -/
theorem test_addReg_into_vF : (after 0x8F14 (start 0x20 0 0xF0)).reg 0xF = 1 ∧ (after 0x8FF4 (start 0 0 0x7F)).reg 0xF = 0 := by decide

/-- A23 and A24: no borrow of the old values. -/
theorem test_subReg : let t := after 0x8125 (start 0x05 0x10 1); let u := after 0x8125 (start 0x33 0x33 0)
    (t.reg 1, t.reg 0xF, u.reg 1, u.reg 0xF) = (0xF5, 0, 0, 1) := by decide

/-- A27 and A28. -/
theorem test_subReg_into_vF : let t := after 0x81F5 (start 0x05 0 0x05)
    (after 0x8F15 (start 0x10 0 0x05)).reg 0xF = 0 ∧ (t.reg 1, t.reg 0xF) = (0, 1) := by decide

/-- A29 and A30. -/
theorem test_subn : let t := after 0x8127 (start 0x05 0x10 0); let u := after 0x8127 (start 0x10 0x05 1)
    (t.reg 1, t.reg 0xF, u.reg 1, u.reg 0xF) = (0x0B, 1, 0xF5, 0) := by decide

/-- A33. -/
theorem test_subn_into_vF : (after 0x8F17 (start 0x05 0 0x10)).reg 0xF = 0 := by decide

/-- A36: `V[2]` is not read. -/
theorem test_shr : let t := after 0x8126 (start 0xFF 0 0)
    (t.reg 1, t.reg 0xF, t.reg 2) = (0x7F, 1, 0) := by decide

/-- A38: the flag is written and then shifted. -/
theorem test_shr_vF : (after 0x8F06 (start 0 0 0xFF)).reg 0xF = 0x00 := by decide

/-- A41 and A42. -/
theorem test_shl : let t := after 0x810E (start 0x40 0 1); let u := after 0x812E (start 0xFF 0 0)
    (t.reg 1, t.reg 0xF, u.reg 1, u.reg 0xF) = (0x80, 0, 0xFE, 1) := by decide

/-- A43 and A44. -/
theorem test_shl_vF : (after 0x8F0E (start 0 0 0x80)).reg 0xF = 0x02 ∧ (after 0x8F0E (start 0 0 0x7F)).reg 0xF = 0x00 := by decide

/-- A46. -/
theorem test_rnd : (after 0xC30F State.reset noKeys 0xA7).reg 3 = 0x07 := by decide

/-- M2. -/
theorem test_ldI : (after 0xAFFF State.reset).i = 0x0FFF := by decide

/-- M4 and M5: 16 bits, no flag. -/
theorem test_addI : let t := after 0xF11E ((start 1 0 0x55).setI 0xFFF); let u := after 0xF11E ((start 2 0 0).setI 0xFFFF)
    (t.i, t.reg 0xF, u.i) = (0x1000, 0x55, 0x0001) := by decide

/-- M9 and M11. -/
theorem test_ldF : (after 0xF129 (start 0x0A 0 0)).i = 0x32 ∧ (after 0xF129 (start 0xFF 0 0)).i = 0x4FB := by decide

/-- M17: up to the last byte of memory. -/
theorem test_ldB : let t := after 0xF133 ((start 0x7B 0 0).setI 0xFFD)
    (t.mem.read 0xFFD, t.mem.read 0xFFE, t.mem.read 0xFFF, t.outcome) = (1, 2, 3, .done) := by decide

/-- M18: precise. -/
theorem test_ldB_out_of_bounds : let t := after 0xF133 ((start 0x7B 0 0).setI 0xFFE)
    (t.mem.read 0xFFE, t.pc, t.run, t.outcome) =
      (0, 0x202, .faulted .outOfBoundsDataAccess, .fatal .outOfBoundsDataAccess) := by decide

/-- M20, with `V[0..2]`: the neighbours and `I` stay. -/
theorem test_stRegs : let t := after 0xF255 (((start 0x22 0x33 0).setReg 0 0x11).setI 0x400 |>.setMem [(0x3FF, 0xEE), (0x403, 0xEE)])
    ([0x3FF, 0x400, 0x401, 0x402, 0x403].map t.mem.read, t.i) = ([0xEE, 0x11, 0x22, 0x33, 0xEE], 0x400) := by decide

/-- M22: not even the byte that would fit is stored. -/
theorem test_stRegs_out_of_bounds : let t := after 0xF155 ((State.reset.setReg 0 0xAB).setI 0xFFF)
    (t.mem.read 0xFFF, t.outcome) = (0, .fatal .outOfBoundsDataAccess) := by decide

/-- M25. -/
theorem test_ldRegs : let t := after 0xF265 ((startAt 0x400 [(0x400, 1), (0x401, 2), (0x402, 3), (0x403, 4)]).setReg 3 0x99)
    (t.reg 0, t.reg 1, t.reg 2, t.reg 3, t.i) = (1, 2, 3, 0x99, 0x400) := by decide

/-- M27. -/
theorem test_ldRegs_out_of_bounds : let t := after 0xF165 ((State.reset.setReg 0 0x77).setI 0xFFF)
    (t.reg 0, t.outcome) = (0x77, .fatal .outOfBoundsDataAccess) := by decide

/-- G25. -/
theorem test_cls : let t := after 0x00E0 ((start 0 0 1).setFb 5)
    (lit t, t.reg 0xF) = ([], 1) := by decide +kernel

/-- G4: columns 64 to 67 are dropped, the last pixel is out of range. -/
theorem test_drw_clipped : let t := after 0xD011 ((startAt 0x300 [(0x300, 0xFF)]).setReg 0 0x3C)
    (lit t, t.reg 0xF) = ([60, 61, 62, 63], 0) := by decide +kernel

/-- G8 with a second row 0x80, from R166: the first row meets a lit cell, the flag is the last pixel's. -/
theorem test_drw_two_rows : let t := after 0xD012 ((startAt 0x300 [(0x300, 0x01), (0x301, 0x80)]).setFb 0x81)
    (lit t, t.reg 0xF) = ([0, 64], 1) := by decide +kernel

/-- G12, G13 and G14: the bound is `I + n = 4096`. -/
theorem test_drw_last_byte : let t := after 0xD011 (startAt 0xFFF [(0xFFF, 0xC0)])
    (lit t, t.reg 0xF, (after 0xD012 (startAt 0xFFF [])).outcome, (after 0xD010 (startAt 0x1001 [])).outcome) =
      ([0, 1], 1, .fatal .outOfBoundsSpriteRead, .fatal .outOfBoundsSpriteRead) := by decide +kernel

/-- K1, with key 7 for key 5, and K3. -/
theorem test_skp : (after 0xE19E (start 7 0 0) keys79).pc = 0x204 ∧ (after 0xE19E (start 0x15 0 0) allKeys).pc = 0x202 := by decide

/-- K6, with key 7 for key 5, and K8. -/
theorem test_sknp : (after 0xE1A1 (start 7 0 0) keys79).pc = 0x202 ∧ (after 0xE1A1 (start 0x10 0 0) allKeys).pc = 0x204 := by decide

/-- K9 (the first step) and K10. -/
theorem test_ldVxK : let t := after 0xF30A State.reset; let u := after 0xF30A State.reset keys79
    (t.pc, t.run, t.outcome, u.reg 3, u.pc, u.run, u.outcome) =
      (0x202, .awaitingKey 3, .awaitingInput, 7, 0x202, .ready, .done) := by decide

/-- K9 (the third step): nothing is fetched. -/
theorem test_waiting_step : (match (State.reset.setRun (.awaitingKey 3)).stepWith keys79 0 with
      | .next t => some (t.reg 3, t.run, t.pc, t.outcome)
      | _ => none) = some (7, .ready, 0x200, .done) := by decide

/-- K14. -/
theorem test_ldVxDt : (after 0xFF07 (State.reset.setDt 3)).reg 0xF = 3 := by decide

/-- K15. -/
theorem test_ldDtVx : (after 0xF115 (start 0x42 0 0)).dt = 0x42 := by decide

/-- K17. -/
theorem test_ldStVx : let t := after 0xF118 (start 0x42 0 0)
    (t.st, t.dt) = (0x42, 0) := by decide

/-- The timers of vectors section 2.6. -/
theorem test_tick : let s := (State.reset.setDt 0xFF).setSt 1
    (s.tick.dt, s.tick.st, s.tick.tick.st) = (0xFE, 0, 0) := by decide

/-- F1. -/
theorem test_fetch_last_word : let t := after 0x6012 (State.reset.setPc 0xFFE)
    (t.reg 0, t.pc, t.outcome) = (0x12, 0x1000, .done) := by decide

/-- F2. -/
theorem test_fetch_out_of_bounds : (match ((State.reset.setPc 0xFFF).setMem [(0xFFF, 0x60)]).stepWith noKeys 0 with
      | .next t => some (t.pc, t.run, t.outcome)
      | _ => none) = some (0xFFF, .faulted .outOfBoundsFetch, .fatal .outOfBoundsFetch) := by decide

/-- `0x5121` of vectors section 2.1. -/
theorem test_unrecognized_word : let t := after 0x5121 (start 7 7 0)
    (t.pc, t.outcome) = (0x202, .done) := by decide

/-- Vectors section 2.8 and glyph A of the default font. -/
theorem test_boot : let t := State.reset.boot Config.defaultFont [0x12, 0x00]
    (t.mem.read 0x200, t.mem.read 0x201, t.mem.read 0x32, t.mem.read 0x33, t.mem.read 0x50, t.pc) =
      (0x12, 0, 0xF0, 0x90, 0, 0x200) := by decide

/-- `step` runs a placed word as the first one after reset. -/
theorem test_step_runs_a_placed_word : (match step (State.reset.withFetchWord 16 0x6A3C) with
      | .next t => some (t.reg 0xA, t.pc)
      | _ => none) = some (0x3C, 0x202) := by decide

/-- Writing what an unlisted address reads as removes the entry. -/
theorem test_memory_stays_canonical : Memory.write [(3, 7), (5, 9)] 3 0 = [(5, 9)] ∧ Memory.write [(3, 7), (5, 9)] 4 1 = [(3, 7), (4, 1), (5, 9)] := by decide

/-- Lists that are not canonical: out of order, a zero byte, an address beyond memory. -/
theorem test_memory_wf_refuses : Memory.wf [(5, 9), (3, 7)] = false ∧ Memory.wf [(3, 0)] = false ∧ Memory.wf [(0x1000, 1)] = false := by decide

/-! ### For each statement with hypotheses, states and operands that meet them, at the boundaries of each clause -/

/-- The reset state with `SP = n`. -/
def withSp (n : Byte) : State := State.reset.setStack State.reset.stack n

theorem witness_EncodeOfDecodeIsTheWord :
    ∃ (op : Word) (i : Instr), decodeWord op = .ok i := ⟨0xD12F, .drw 0x1 0x2 0xF, by decide⟩

theorem witness_CallPushesAndJumps_free :
    (withSp 0).sp.toNat < 16 ∧ (withSp 15).sp.toNat < 16 := by decide

theorem witness_CallPushesAndJumps_full :
    (withSp 16).sp.toNat = 16 := by decide

theorem witness_ReturnPopsTheAddress_live :
    (0 < (withSp 1).sp.toNat ∧ (withSp 1).sp.toNat ≤ 16) ∧ (0 < (withSp 16).sp.toNat ∧ (withSp 16).sp.toNat ≤ 16) := by decide

theorem witness_ReturnPopsTheAddress_empty :
    (withSp 0).sp.toNat = 0 := by decide

theorem witness_IllegalStackPointerStops :
    16 < (withSp 17).sp.toNat ∧ 16 < (withSp 255).sp.toNat := by decide

theorem witness_ReturnUndoesCall :
    (withSp 0).sp.toNat < 16 ∧ (withSp 15).sp.toNat < 16 := by decide

/-- The low nibbles that are no encoding of `5xy0` and `9xy0`. -/
theorem witness_RegisterSkips :
    (1 : Nibble) ≠ 0 ∧ (15 : Nibble) ≠ 0 := by decide

theorem witness_AddSetsCarry :
    (0 : Reg) ≠ vF ∧ (14 : Reg) ≠ vF := by decide

theorem witness_SubtractSetsNoBorrow :
    (0 : Reg) ≠ vF ∧ (14 : Reg) ≠ vF := by decide

theorem witness_ShiftsMoveTheBitOutToVF :
    (14 : Reg) ≠ vF ∧ (15 : Reg) = vF := by decide

theorem witness_StoreDecimalDigits :
    (startAt 0xFFD []).mem.wf = true ∧ (startAt 0xFFD []).indexAddr + 2 ≤ 0xFFF := by decide

theorem witness_StoreRegisterRange_zero :
    (startAt 0xFFF []).mem.wf = true ∧ (startAt 0xFFF []).indexAddr + (0 : Reg).toNat ≤ 0xFFF := by decide

theorem witness_StoreRegisterRange_all :
    (startAt 0xFF0 []).mem.wf = true ∧ (startAt 0xFF0 []).indexAddr + (15 : Reg).toNat ≤ 0xFFF := by decide

theorem witness_LoadRegisterRange :
    (startAt 0xFFF []).indexAddr + (0 : Reg).toNat ≤ 0xFFF ∧ (startAt 0xFF0 []).indexAddr + (15 : Reg).toNat ≤ 0xFFF := by decide

theorem witness_OutOfRangeDataAccessRaises_digits :
    (startAt 0xFFE []).indexAddr + 2 > 0xFFF := by decide

theorem witness_OutOfRangeDataAccessRaises_range :
    (startAt 0x1000 []).indexAddr + (0 : Reg).toNat > 0xFFF ∧ (startAt 0xFF1 []).indexAddr + (15 : Reg).toNat > 0xFFF := by decide

theorem witness_StoredRegistersLoadBack :
    (startAt 0x400 []).mem.wf = true ∧ (startAt 0x400 []).indexAddr + (3 : Reg).toNat ≤ 0xFFF := by decide

theorem witness_StoreIsSeenByTheNextFetch :
    let s := startAt 0x200 []
    s.mem.wf = true ∧ s.i = s.pc ∧ 1 ≤ (1 : Reg).toNat ∧ s.indexAddr + (1 : Reg).toNat ≤ 0xFFF := by decide

theorem witness_DrawXorsTheSprite_rows :
    (startAt 0xFFF []).indexAddr + (1 : Nibble).toNat ≤ 4096 ∧ 0 < (1 : Nibble).toNat := by decide

theorem witness_DrawXorsTheSprite_no_row :
    (startAt 0x1000 []).indexAddr + (0 : Nibble).toNat ≤ 4096 ∧ (0 : Nibble).toNat = 0 := by decide

theorem witness_OutOfRangeSpriteRaises :
    (startAt 0x1001 []).indexAddr + (0 : Nibble).toNat > 4096 ∧ (startAt 0xFF2 []).indexAddr + (15 : Nibble).toNat > 4096 := by decide

theorem witness_DrawingTwiceRestoresTheScreen :
    (startAt 0x300 []).indexAddr + (15 : Nibble).toNat ≤ 4096 ∧ (0 : Reg) ≠ vF ∧ (1 : Reg) ≠ vF := by decide

theorem witness_KeySkips_down :
    ∃ (s : State) (h : (s.reg 1).toNat < 16), s.keys[(s.reg 1).toNat] = true := ⟨(start 15 0 0).withInputs allKeys 0, by decide, by decide⟩

theorem witness_KeySkips_not_down :
    ∃ s : State, ¬ ∃ h : (s.reg 1).toNat < 16, s.keys[(s.reg 1).toNat] = true := ⟨(start 16 0 0).withInputs allKeys 0, fun ⟨h, _⟩ => absurd h (by decide)⟩

theorem witness_WaitForKeyDeliversOrWaits_delivers :
    ∃ (s : State) (k : Fin 16), s.keys[k] = true ∧ ∀ j : Fin 16, j < k → s.keys[j] = false := ⟨State.reset.withInputs keys79 0, 7, by decide, by decide⟩

theorem witness_WaitForKeyDeliversOrWaits_waits :
    ∃ s : State, ∀ k : Fin 16, s.keys[k] = false := ⟨State.reset.withInputs noKeys 0, by decide⟩

theorem witness_WaitingStepDeliversOrWaits_delivers :
    ∃ (s : State) (keys : Config.Keys) (k : Fin 16), s.run = .awaitingKey 3 ∧ keys[k] = true ∧
      ∀ j : Fin 16, j < k → keys[j] = false := ⟨State.reset.setRun (.awaitingKey 3), keys79, 7, rfl, by decide, by decide⟩

theorem witness_WaitingStepDeliversOrWaits_waits :
    ∃ (s : State) (keys : Config.Keys), s.run = .awaitingKey 3 ∧ ∀ k : Fin 16, keys[k] = false := ⟨State.reset.setRun (.awaitingKey 3), noKeys, rfl, by decide⟩

theorem witness_StepRunsTheDecodedInstruction :
    let s := (State.reset.setPc 0xFFE).setMem [(0xFFE, 0x60), (0xFFF, 0x12)]
    s.run = .ready ∧ s.pc.toNat + 1 ≤ 0xFFF ∧
      decodeWord (wordOfBytes (s.mem.read s.pc.toNat) (s.mem.read (s.pc.toNat + 1))) = .ok (.ldImm 0 0x12) := by decide

theorem witness_UnrecognizedWordIsNoOp :
    ∃ (s : State) (op : Word), s.run = .ready ∧ s.fetch = some op ∧ ∀ r ∈ opcodeTable, op &&& r.mask ≠ r.pattern := ⟨State.reset, 0x0000, rfl, by decide, by decide⟩

theorem witness_FetchReadsTwoBytesOrIsFatal_in_range :
    (State.reset.setPc 0xFFE).pc.toNat + 1 ≤ 0xFFF := by decide

theorem witness_FetchReadsTwoBytesOrIsFatal_fatal :
    (State.reset.setPc 0xFFF).run = .ready ∧ (State.reset.setPc 0xFFF).pc.toNat + 1 > 0xFFF := by decide

theorem witness_FaultedStepIsInert :
    ∃ (s : State) (k : FatalKind), s.run = .faulted k := ⟨State.reset.raiseFatal .outOfBoundsFetch, _, rfl⟩

theorem witness_FaultIsNeverLeftBySteps :
    ∃ (s : State) (k : FatalKind), s.run = .faulted k := ⟨State.reset.raiseFatal .outOfBoundsSpriteRead, _, rfl⟩

theorem witness_OutcomeAgreesWithRunState :
    ∃ (s t : State), s.stepWith noKeys 0 = .next t := ⟨State.reset.setPc 0xFFF, (State.reset.setPc 0xFFF).withInputs noKeys 0 |>.raiseFatal .outOfBoundsFetch, rfl⟩

theorem witness_FatalErrorsArePrecise :
    ∃ t : State, (startAt 0xFFE []).run = .ready ∧ exec (.ldB 1) (startAt 0xFFE []) = .next t ∧
      t.run = .faulted .outOfBoundsDataAccess := ⟨(startAt 0xFFE []).raiseFatal .outOfBoundsDataAccess, rfl, rfl, rfl⟩

theorem witness_ParkedStaysParked :
    ∃ (s : State) (a : Addr), s.parked a := ⟨State.reset.placeWord 0x1200, 0x200, rfl, by decide, by decide, by decide⟩

theorem witness_BootSetsEveryPiece_image :
    ∃ (image : List Byte) (k : Nat), k < image.length ∧ k < 3584 := ⟨List.replicate 3585 1, 3583, by rw [List.length_replicate]; omega, by omega⟩

theorem witness_BootSetsEveryPiece_rest :
    ∃ (image : List Byte) (k : Nat), image.length ≤ k ∧ k < 3584 := ⟨[], 3583, by decide, by decide⟩

theorem witness_BootSetsEveryPiece_gap :
    ∃ a, 80 ≤ a ∧ a < 0x200 := ⟨0x1FF, by decide, by decide⟩

theorem witness_ResetRunsOffTheEndOfMemory_no_ops :
    ∃ (n : Nat) (s : State), 0 < n ∧ s.run = .ready ∧ (∀ a, s.pc.toNat ≤ a → a ≤ 0xFFF → s.mem.read a = 0) ∧
      s.pc.toNat + 2 * n ≤ 0x1000 := ⟨1792, State.reset, by decide, rfl, fun _ _ _ => rfl, by decide⟩

/-- An odd `PC`: one no-op, then the fetch at 0xFFF is fatal. -/
theorem witness_ResetRunsOffTheEndOfMemory_fatal :
    ∃ (n : Nat) (s : State), s.run = .ready ∧ (∀ a, s.pc.toNat ≤ a → a ≤ 0xFFF → s.mem.read a = 0) ∧
      s.pc.toNat + 2 * n ≤ 0x1000 ∧ 0xFFF ≤ s.pc.toNat + 2 * n := ⟨1, State.reset.setPc 0xFFD, rfl, fun _ _ _ => rfl, by decide, by decide⟩

theorem witness_ResetRunsOffTheEndOfMemory_reset :
    ∃ n, n ≤ 1792 ∧ 0 < n := ⟨1792, by decide, by decide⟩

theorem witness_RunsStartWithBootAndComplete :
    ∃ o : Operation, ∀ font image, o ≠ .boot font image := ⟨.tick, by simp⟩

theorem witness_SnapshotAndDumpShowTheState :
    ∃ cx cy a, cx ≤ 63 ∧ cy ≤ 31 ∧ a ≤ 0xFFF := ⟨63, 31, 0xFFF, by decide, by decide, by decide⟩

theorem witness_StepKeepsTheInvariant :
    ∃ s t : State, s.Inv ∧ step s = .next t := ⟨State.reset, _, ⟨rfl, by decide, by decide, fun a h => by rw [State.live_of_sp_zero rfl] at h; cases h⟩, rfl⟩

/-- The invariant at the highest `PC` it allows. -/
theorem witness_EveryOperationCompletes :
    ∃ s : State, s.Inv ∧ s.pc.toNat = 0x10FE := ⟨State.reset.setPc 0x10FE, ⟨rfl, by decide, by decide, fun a h => by rw [State.live_of_sp_zero rfl] at h; cases h⟩, rfl⟩

theorem witness_AccessTableBoundsTheWrites :
    ∃ (i : Instr) (s t : State), exec i s = .next t := ⟨.addReg 1 2, start 1 2 0, _, rfl⟩

theorem witness_InputsAreReadOnlyWhereNamed :
    ∃ i : Instr, (∀ x kk, i ≠ .rnd x kk) ∧ ∀ x, i ≠ .skp x ∧ i ≠ .sknp x ∧ i ≠ .ldVxK x := ⟨.addReg 1 2, by simp, by simp⟩

theorem witness_TimersAreReadOnlyWhereNamed :
    ∃ i : Instr, (∀ x, i ≠ .ldStVx x) ∧ ∀ x, i ≠ .ldVxDt x ∧ i ≠ .ldDtVx x := ⟨.addReg 1 2, by simp, by simp⟩

end Sys2Proof.Tests
end

/-! The decoder and the opcode map (spec/30_encoding.md R61 to R65): a word is put together again from its fields, so a word
that decodes is the encoding of what it decodes to and matches that instruction's row. -/

namespace Sys2Proof

/-! ### A word from its fields -/

/-- A word of group `c` and low byte `kk`, in format `XKK` (R62). -/
theorem wordXkk_of_fields {op : Word} {c : Nibble} {kk : Byte} (hc : fieldC op = c) (hkk : fieldKk op = kk) :
    wordXkk c (fieldX op) kk = op := by
  subst hc hkk
  apply BitVec.eq_of_toNat_eq
  rw [wordXkk_toNat, fieldC_toNat, fieldX_toNat, fieldKk_toNat]; omega

/-- A word of group `c`, in format `ADDR` (R62). -/
theorem wordAddr_of_fields {op : Word} {c : Nibble} (hc : fieldC op = c) : wordAddr c (fieldNnn op) = op := by
  subst hc
  apply BitVec.eq_of_toNat_eq
  rw [wordAddr_toNat, fieldC_toNat, fieldNnn_toNat]; omega

/-- A word of group `c` and low nibble `n`, in format `XY` or `XYN` (R62). -/
theorem wordXyn_of_fields {op : Word} {c n : Nibble} (hc : fieldC op = c) (hn : fieldN op = n) :
    wordXyn c (fieldX op) (fieldY op) n = op := by
  subst hc hn
  apply BitVec.eq_of_toNat_eq
  rw [wordXyn_toNat, fieldC_toNat, fieldX_toNat, fieldY_toNat, fieldN_toNat]; omega

/-! ### The encoding of what a word decodes to, group by group (R65) -/

theorem encode_of_decode0 {op : Word} {i : Instr} (h : decode0 op = .ok i) : encode i = op := by
  unfold decode0 at h
  split_ifs at h with hcls hret <;> cases h
  · exact hcls.symm
  · exact hret.symm

/-- In group 8 the low nibble of the word is the one the encoder writes. -/
theorem encode_of_decode8 {op : Word} {i : Instr} (hc : fieldC op = 0x8) (h : decode8 op = .ok i) : encode i = op := by
  unfold decode8 at h
  split at h <;> cases h
  all_goals exact wordXyn_of_fields hc (BitVec.eq_of_toNat_eq ‹_›)

/-- In group E the low byte of the word is the one the encoder writes. -/
theorem encode_of_decodeE {op : Word} {i : Instr} (hc : fieldC op = 0xE) (h : decodeE op = .ok i) : encode i = op := by
  unfold decodeE at h
  split_ifs at h <;> cases h
  all_goals exact wordXkk_of_fields hc ‹_›

/-- In group F the low byte of the word is the one the encoder writes. -/
theorem encode_of_decodeF {op : Word} {i : Instr} (hc : fieldC op = 0xF) (h : decodeF op = .ok i) : encode i = op := by
  unfold decodeF at h
  split_ifs at h <;> cases h
  all_goals exact wordXkk_of_fields hc ‹_›

/-- The decoder's arm of groups 5 and 9, which answers `j` for low nibble 0 alone. -/
theorem encode_of_lowNibble_zero {op : Word} {i j : Instr} (hj : fieldN op = 0 → encode j = op)
    (h : (if fieldN op = 0 then .ok j else .error (.unrecognized op) : Except DecodeError Instr) = .ok i) :
    encode i = op := by
  split_ifs at h with hn
  cases h; exact hj hn

/-- A word that decodes is the encoding of what it decodes to (R61, R63). -/
theorem encode_of_decodeWord {op : Word} {i : Instr} (h : decodeWord op = .ok i) : encode i = op := by
  unfold decodeWord at h
  split at h
  case h_1 => exact encode_of_decode0 h
  case h_2 hc | h_3 hc | h_11 hc | h_12 hc => cases h; exact wordAddr_of_fields (BitVec.eq_of_toNat_eq hc)
  case h_4 hc | h_5 hc | h_7 hc | h_8 hc | h_13 hc => cases h; exact wordXkk_of_fields (BitVec.eq_of_toNat_eq hc) rfl
  case h_6 hc | h_10 hc => exact encode_of_lowNibble_zero (wordXyn_of_fields (BitVec.eq_of_toNat_eq hc)) h
  case h_9 hc => exact encode_of_decode8 (BitVec.eq_of_toNat_eq hc) h
  case h_14 hc => cases h; exact wordXyn_of_fields (BitVec.eq_of_toNat_eq hc) rfl
  case h_15 hc => exact encode_of_decodeE (BitVec.eq_of_toNat_eq hc) h
  case h_16 hc => exact encode_of_decodeF (BitVec.eq_of_toNat_eq hc) h
  case h_17 => cases h

/-! ### The rows of the map -/

open Laws in
/-- Every instruction's word matches the row of its mnemonic (R63). -/
theorem encode_matchesRow : ∀ i : Instr, MatchesRow.Statement i
  | .cls => MatchesRow.cls
  | .ret => MatchesRow.ret
  | .jp nnn => MatchesRow.jp nnn
  | .call nnn => MatchesRow.call nnn
  | .seImm x kk => MatchesRow.seImm x kk
  | .sneImm x kk => MatchesRow.sneImm x kk
  | .seReg x y => MatchesRow.seReg x y
  | .ldImm x kk => MatchesRow.ldImm x kk
  | .addImm x kk => MatchesRow.addImm x kk
  | .ldReg x y => MatchesRow.ldReg x y
  | .orReg x y => MatchesRow.orReg x y
  | .andReg x y => MatchesRow.andReg x y
  | .xorReg x y => MatchesRow.xorReg x y
  | .addReg x y => MatchesRow.addReg x y
  | .subReg x y => MatchesRow.subReg x y
  | .shr x y => MatchesRow.shr x y
  | .subn x y => MatchesRow.subn x y
  | .shl x y => MatchesRow.shl x y
  | .sneReg x y => MatchesRow.sneReg x y
  | .ldI nnn => MatchesRow.ldI nnn
  | .jpV0 nnn => MatchesRow.jpV0 nnn
  | .rnd x kk => MatchesRow.rnd x kk
  | .drw x y n => MatchesRow.drw x y n
  | .skp x => MatchesRow.skp x
  | .sknp x => MatchesRow.sknp x
  | .ldVxDt x => MatchesRow.ldVxDt x
  | .ldVxK x => MatchesRow.ldVxK x
  | .ldDtVx x => MatchesRow.ldDtVx x
  | .ldStVx x => MatchesRow.ldStVx x
  | .addI x => MatchesRow.addI x
  | .ldF x => MatchesRow.ldF x
  | .ldB x => MatchesRow.ldB x
  | .stRegs x => MatchesRow.stRegs x
  | .ldRegs x => MatchesRow.ldRegs x

/-- A word that decodes matches the row of the instruction it decodes to (R63). -/
theorem matches_row_of_decodeWord {op : Word} {i : Instr} (h : decodeWord op = .ok i) :
    ∃ r ∈ opcodeTable, r.mnemonic = i.mnemonic ∧ op &&& r.mask = r.pattern := by
  obtain ⟨r, hmem, hname, hfits⟩ := encode_matchesRow i
  rw [encode_of_decodeWord h] at hfits
  exact ⟨r, hmem, hname, by simpa [Row.fits] using hfits⟩

/-- A word that matches no row is rejected by the decoder (R66). -/
theorem decodeWord_error_of_matches_no_row {op : Word} (h : ∀ r ∈ opcodeTable, op &&& r.mask ≠ r.pattern) :
    ∃ e, decodeWord op = .error e := by
  cases hd : decodeWord op with
  | error e => exact ⟨e, rfl⟩
  | ok i =>
    obtain ⟨r, hmem, -, hand⟩ := matches_row_of_decodeWord hd
    exact absurd hand (h r hmem)

end Sys2Proof

/-! The step on a word the decoder rejects (spec/30_encoding.md R66). -/

namespace Sys2Proof.Machine

/-- In `READY`, a fetched word that the decoder rejects advances `PC` and does nothing else (R66, R202). -/
theorem State.stepWith_of_decode_error {s : State} {op : Word} {e : DecodeError} (hrun : s.run = .ready)
    (hfetch : s.fetch = some op) (hdec : decodeWord op = .error e) (keys : Config.Keys) (b : Byte) :
    s.stepWith keys b = .next (s.withInputs keys b).advance := by
  have hfetch' : (s.withInputs keys b).fetch = some op := (fetch_congr rfl rfl).trans hfetch
  rw [stepWith_ready hrun, runReady_of_fetch hfetch', execWord_error hdec]

/-- What the two updates of such a step leave alone. -/
theorem keeps_withInputs_advance (s : State) (keys : Config.Keys) (b : Byte) :
    KeepsAllBut noReg [.pc, .outcome, .inputs] s (s.withInputs keys b).advance :=
  ((keeps_withInputs s keys b).mono (fun _ h => h) (by simp)).trans
    ((keeps_advance _).mono (fun _ h => h) (by simp))

/-- Settles O43: a word that matches no row of the map is rejected by the decoder, and the step then only advances. -/
theorem unrecognizedWordIsNoOp : Obligations.UnrecognizedWordIsNoOp := by
  intro s keys b op hrun hfetch hno
  obtain ⟨e, hdec⟩ := decodeWord_error_of_matches_no_row hno
  exact ⟨_, State.stepWith_of_decode_error hrun hfetch hdec keys b, rfl, rfl, keeps_withInputs_advance s keys b⟩

end Sys2Proof.Machine

/-! The control flow family (spec/40_control_flow.md): what its words decode to, what each of its instructions answers, and
what becomes of the live return addresses. -/

namespace Sys2Proof

/-! ### The words of the family (R65) -/

theorem decodeWord_group1 (nnn : Addr) : decodeWord (wordAddr 0x1 nnn) = .ok (.jp nnn) := by simp [decodeWord]

theorem decodeWord_group2 (nnn : Addr) : decodeWord (wordAddr 0x2 nnn) = .ok (.call nnn) := by simp [decodeWord]

theorem decodeWord_group3 (x : Reg) (kk : Byte) : decodeWord (wordXkk 0x3 x kk) = .ok (.seImm x kk) := by
  simp [decodeWord]

theorem decodeWord_group4 (x : Reg) (kk : Byte) : decodeWord (wordXkk 0x4 x kk) = .ok (.sneImm x kk) := by
  simp [decodeWord]

/-- In group 5 low nibble 0 alone is an instruction (R108). -/
theorem decodeWord_group5 (x y : Reg) (n : Nibble) :
    decodeWord (wordXyn 0x5 x y n) = if n = 0 then .ok (.seReg x y) else .error (.unrecognized (wordXyn 0x5 x y n)) := by
  simp [decodeWord]

/-- In group 9 low nibble 0 alone is an instruction (R109). -/
theorem decodeWord_group9 (x y : Reg) (n : Nibble) :
    decodeWord (wordXyn 0x9 x y n) = if n = 0 then .ok (.sneReg x y) else .error (.unrecognized (wordXyn 0x9 x y n)) := by
  simp [decodeWord]

end Sys2Proof

namespace Sys2Proof.Machine

/-- The address operand is zero-extended (R64). -/
theorem addrOperand_toNat (nnn : Addr) : (addrOperand nnn).toNat = nnn.toNat :=
  BitVec.toNat_setWidth_of_le (by decide)

/-! ### The stack controller, case by case (R100, R101) -/

theorem byte_ne_zero_of_pos {b : Byte} (h : 0 < b.toNat) : b ≠ 0 := by
  rintro rfl; exact absurd h (by decide)

theorem State.push_of_free {s : State} (h : s.sp.toNat < 16) (a : Word) :
    s.push a = .ok (s.setStack (s.stack.set s.sp.toNat a) (s.sp + 1)) a := by
  rcases s.push_cases a with ⟨hsp, -⟩ | ⟨_, hpush⟩ | ⟨hsp, -⟩
  · rw [hsp] at h; exact absurd h (by decide)
  · exact hpush
  · omega

theorem State.push_of_full {s : State} (h : s.sp.toNat = 16) (a : Word) : s.push a = .refusedWith .stackOverflow := by
  rcases s.push_cases a with ⟨-, hpush⟩ | ⟨hsp, -⟩ | ⟨hsp, -⟩
  · exact hpush
  · omega
  · omega

theorem State.pop_of_live {s : State} (hpos : 0 < s.sp.toNat) (hle : s.sp.toNat ≤ 16) :
    s.pop = .ok (s.setStack s.stack (s.sp - 1)) s.stack[s.sp.toNat - 1] := by
  rcases s.pop_cases with ⟨hsp, -⟩ | ⟨_, -, hpop⟩ | ⟨hsp, -⟩
  · exact absurd hsp (byte_ne_zero_of_pos hpos)
  · exact hpop
  · omega

theorem State.pop_of_empty {s : State} (h : s.sp.toNat = 0) : s.pop = .refusedWith .stackUnderflow := by
  rcases s.pop_cases with ⟨-, hpop⟩ | ⟨-, hne, -⟩ | ⟨hsp, -⟩
  · exact hpop
  · exact absurd (BitVec.eq_of_toNat_eq h) hne
  · omega

/-- The live return addresses after a push: the pushed one is the newest. -/
theorem State.live_setStack_push {s : State} (h : s.sp.toNat < 16) (a : Word) :
    (s.setStack (s.stack.set s.sp.toNat a) (s.sp + 1)).live = s.live ++ [a] := by
  simp only [live, setStack_stack, setStack_sp, byte_toNat_add_one h]
  exact take_set_succ s.stack s.sp.toNat h a

/-- The live return addresses after a pop: all but the newest, which is the one in the slot below `SP`. -/
theorem State.live_setStack_pop {s : State} (hpos : 0 < s.sp.toNat) (hle : s.sp.toNat ≤ 16) :
    (s.setStack s.stack (s.sp - 1)).live ++ [s.stack[s.sp.toNat - 1]] = s.live := by
  simp only [live, setStack_stack, setStack_sp, byte_toNat_sub_one (byte_ne_zero_of_pos hpos)]
  exact take_pred_append s.stack s.sp.toNat (by omega) hpos

theorem keeps_setStack_setPc (s : State) (l : Vector Word 16) (p : Byte) (a : Word) :
    KeepsAllBut noReg [.pc, .stack] s ((s.setStack l p).setPc a) :=
  ((keeps_setStack s l p).mono (fun _ h => h) (by simp)).trans ((keeps_setPc _ a).mono (fun _ h => h) (by simp))

/-! ### What each instruction answers (R102 to R109) -/

theorem exec_jp (nnn : Addr) (s : State) : exec (.jp nnn) s = .next (s.setPc (addrOperand nnn)) := rfl

theorem exec_call_of_free {s : State} (h : s.sp.toNat < 16) (nnn : Addr) :
    exec (.call nnn) s =
      .next ((s.setStack (s.stack.set s.sp.toNat s.pc) (s.sp + 1)).setPc (addrOperand nnn)) := by
  simp only [exec, execCall, State.push_of_free h]

theorem exec_call_of_full {s : State} (h : s.sp.toNat = 16) (nnn : Addr) :
    exec (.call nnn) s = .next (s.report .stackOverflow) := by
  simp only [exec, execCall, State.push_of_full h]

theorem exec_ret_of_live {s : State} (hpos : 0 < s.sp.toNat) (hle : s.sp.toNat ≤ 16) :
    exec .ret s = .next ((s.setStack s.stack (s.sp - 1)).setPc s.stack[s.sp.toNat - 1]) := by
  simp only [exec, execRet, State.pop_of_live hpos hle]

theorem exec_ret_of_empty {s : State} (h : s.sp.toNat = 0) : exec .ret s = .next (s.report .stackUnderflow) := by
  simp only [exec, execRet, State.pop_of_empty h]

theorem exec_seImm (x : Reg) (kk : Byte) (s : State) : exec (.seImm x kk) s = .next (s.skipIf (s.reg x == kk)) := rfl

theorem exec_sneImm (x : Reg) (kk : Byte) (s : State) : exec (.sneImm x kk) s = .next (s.skipIf (s.reg x != kk)) := rfl

theorem exec_seReg (x y : Reg) (s : State) : exec (.seReg x y) s = .next (s.skipIf (s.reg x == s.reg y)) := rfl

theorem exec_sneReg (x y : Reg) (s : State) : exec (.sneReg x y) s = .next (s.skipIf (s.reg x != s.reg y)) := rfl

/-- `PC` after a skip on equality. -/
theorem State.skipIf_beq_pc (s : State) (a b : Byte) :
    (s.skipIf (a == b)).pc = if a = b then s.pc + 2 else s.pc := by
  simp

/-- `PC` after a skip on difference. -/
theorem State.skipIf_bne_pc (s : State) (a b : Byte) :
    (s.skipIf (a != b)).pc = if a = b then s.pc else s.pc + 2 := by
  simp

/-! ### The statements -/

/-- Settles O7: a free slot takes the address after the call, which becomes the newest live one; a full stack refuses it. -/
theorem callPushesAndJumps : Obligations.CallPushesAndJumps := by
  intro nnn s
  refine ⟨decodeWord_group2 nnn, fun hfree => ?_, fun hfull => ?_⟩
  · exact ⟨_, exec_call_of_free hfree nnn, addrOperand_toNat nnn, byte_toNat_add_one hfree,
      State.live_setStack_push hfree s.pc, keeps_setStack_setPc s _ _ _⟩
  · exact ⟨_, exec_call_of_full hfull nnn, rfl, keeps_report s _⟩

/-- Settles O8: a live stack gives back its newest address, in the slot below `SP`; an empty one refuses. -/
theorem returnPopsTheAddress : Obligations.ReturnPopsTheAddress := by
  intro s
  refine ⟨by decide, fun hpos hle => ?_, fun hempty => ?_⟩
  · have hsp : (s.sp - 1).toNat + 1 = s.sp.toNat := by
      rw [byte_toNat_sub_one (byte_ne_zero_of_pos hpos)]; omega
    exact ⟨_, exec_ret_of_live hpos hle, hsp, State.live_setStack_pop hpos hle,
      keeps_setStack_setPc s _ _ _⟩
  · exact ⟨_, exec_ret_of_empty hempty, rfl, keeps_report s _⟩

/-- Settles O5: the jump is one update of `PC`, by the zero-extended address. -/
theorem jumpLoadsTheAddress : Obligations.JumpLoadsTheAddress := fun nnn s =>
  ⟨decodeWord_group1 nnn, _, exec_jp nnn s, addrOperand_toNat nnn, keeps_setPc s _⟩

/-- Settles O11: both forms are one skip, on equality with the immediate and on difference from it. -/
theorem immediateSkips : Obligations.ImmediateSkips := by
  intro x kk s
  constructor
  · exact ⟨decodeWord_group3 x kk, _, exec_seImm x kk s, s.skipIf_beq_pc _ _, keeps_skipIf s _⟩
  · exact ⟨decodeWord_group4 x kk, _, exec_sneImm x kk s, s.skipIf_bne_pc _ _, keeps_skipIf s _⟩

/-- Settles O12: both forms are one skip, on equality of the registers and on their difference; in both groups the decoder
takes low nibble 0 alone. -/
theorem registerSkips : Obligations.RegisterSkips := by
  intro x y s
  constructor
  · exact ⟨decodeWord_group5 x y 0, fun n hn => (decodeWord_group5 x y n).trans (if_neg hn), _, exec_seReg x y s,
      s.skipIf_beq_pc _ _, keeps_skipIf s _⟩
  · exact ⟨decodeWord_group9 x y 0, fun n hn => (decodeWord_group9 x y n).trans (if_neg hn), _, exec_sneReg x y s,
      s.skipIf_bne_pc _ _, keeps_skipIf s _⟩

end Sys2Proof.Machine

/-! The register family's loads, addition and logic (spec/41_register_alu.md R121 to R126): what their words decode to, and
the one register each of them writes. -/

namespace Sys2Proof

/-! ### The words of the family (R65) -/

theorem decodeWord_group6 (x : Reg) (kk : Byte) : decodeWord (wordXkk 0x6 x kk) = .ok (.ldImm x kk) := by
  simp [decodeWord]

theorem decodeWord_group7 (x : Reg) (kk : Byte) : decodeWord (wordXkk 0x7 x kk) = .ok (.addImm x kk) := by
  simp [decodeWord]

/-- A word of group 8 is decoded by its low nibble. -/
theorem decodeWord_group8 (x y : Reg) (n : Nibble) : decodeWord (wordXyn 0x8 x y n) = decode8 (wordXyn 0x8 x y n) := by
  simp [decodeWord]

theorem decodeWord_ldReg (x y : Reg) : decodeWord (wordXyn 0x8 x y 0) = .ok (.ldReg x y) := by
  rw [decodeWord_group8]; simp [decode8]

theorem decodeWord_orReg (x y : Reg) : decodeWord (wordXyn 0x8 x y 1) = .ok (.orReg x y) := by
  rw [decodeWord_group8]; simp [decode8]

theorem decodeWord_andReg (x y : Reg) : decodeWord (wordXyn 0x8 x y 2) = .ok (.andReg x y) := by
  rw [decodeWord_group8]; simp [decode8]

theorem decodeWord_xorReg (x y : Reg) : decodeWord (wordXyn 0x8 x y 3) = .ok (.xorReg x y) := by
  rw [decodeWord_group8]; simp [decode8]

end Sys2Proof

namespace Sys2Proof.Machine

/-! ### What each instruction answers (R121 to R126) -/

theorem exec_ldImm (x : Reg) (kk : Byte) (s : State) : exec (.ldImm x kk) s = .next (s.setReg x kk) := rfl

theorem exec_addImm (x : Reg) (kk : Byte) (s : State) : exec (.addImm x kk) s = .next (s.setReg x (s.reg x + kk)) := rfl

theorem exec_ldReg (x y : Reg) (s : State) : exec (.ldReg x y) s = .next (s.setReg x (s.reg y)) := rfl

theorem exec_orReg (x y : Reg) (s : State) : exec (.orReg x y) s = .next (s.setReg x (s.reg x ||| s.reg y)) := rfl

theorem exec_andReg (x y : Reg) (s : State) : exec (.andReg x y) s = .next (s.setReg x (s.reg x &&& s.reg y)) := rfl

theorem exec_xorReg (x y : Reg) (s : State) : exec (.xorReg x y) s = .next (s.setReg x (s.reg x ^^^ s.reg y)) := rfl

/-- Copying `V[y]` leaves `V[y]` as it was, into itself too (R123). -/
theorem State.reg_setReg_of_reg (s : State) (x y : Reg) : (s.setReg x (s.reg y)).reg y = s.reg y := by
  by_cases h : y = x
  · rw [h, reg_setReg_same]
  · rw [reg_setReg_of_ne s x y _ h]

/-! ### The statements -/

/-- Settles O13: the load is one write of the immediate to `V[x]`. -/
theorem loadImmediate : Obligations.LoadImmediate := fun x kk s =>
  ⟨decodeWord_group6 x kk, _, exec_ldImm x kk s, s.reg_setReg_same x kk, keeps_setReg s x kk⟩

/-- Settles O14: the one write is the byte sum, whose carry out of bit 7 is lost. -/
theorem addImmediateWrapsWithoutFlag : Obligations.AddImmediateWrapsWithoutFlag := by
  intro x kk s
  refine ⟨decodeWord_group7 x kk, _, exec_addImm x kk s, ?_, keeps_setReg s x _⟩
  rw [State.reg_setReg_same, BitVec.toNat_add]

/-- Settles O15: the copy is one write of `V[y]`'s value to `V[x]`. -/
theorem copyRegister : Obligations.CopyRegister := fun x y s =>
  ⟨decodeWord_ldReg x y, _, exec_ldReg x y s, s.reg_setReg_same x _, s.reg_setReg_of_reg x y, keeps_setReg s x _⟩

/-- Settles O16: each of the three is one write to `V[x]`, whose bits are those of the byte operation. -/
theorem bitwiseLogicWithoutFlag : Obligations.BitwiseLogicWithoutFlag := by
  intro x y s
  refine ⟨decodeWord_orReg x y, decodeWord_andReg x y, decodeWord_xorReg x y,
    ⟨_, exec_orReg x y s, keeps_setReg s x _, fun k => ?or⟩,
    ⟨_, exec_andReg x y s, keeps_setReg s x _, fun k => ?and⟩,
    ⟨_, exec_xorReg x y s, keeps_setReg s x _, fun k => ?xor⟩⟩
  case or => rw [State.reg_setReg_same, BitVec.getLsbD_or]
  case and => rw [State.reg_setReg_same, BitVec.getLsbD_and]
  case xor => rw [State.reg_setReg_same, BitVec.getLsbD_xor]

end Sys2Proof.Machine

/-! The index and memory family's load of `I` (spec/42_index_memory.md R140): what its word decodes to, and what it
answers. -/

namespace Sys2Proof

theorem decodeWord_groupA (nnn : Addr) : decodeWord (wordAddr 0xA nnn) = .ok (.ldI nnn) := by simp [decodeWord]

end Sys2Proof

namespace Sys2Proof.Machine

theorem exec_ldI (nnn : Addr) (s : State) : exec (.ldI nnn) s = .next (s.setI (addrOperand nnn)) := rfl

/-- Settles O21: the load is one update of `I`, by the zero-extended address. -/
theorem loadIndex : Obligations.LoadIndex := fun nnn s =>
  ⟨decodeWord_groupA nnn, _, exec_ldI nnn s, addrOperand_toNat nnn, keeps_setI s _⟩

end Sys2Proof.Machine

/-! The display family's clear (spec/43_display.md R165): what it answers. -/

namespace Sys2Proof.Machine

theorem exec_cls (s : State) : exec .cls s = .next (s.setFb fbClear) := rfl

/-- Settles O30: the clear is one update of the framebuffer, to the one in which every cell is off. -/
theorem clearTurnsEveryCellOff : Obligations.ClearTurnsEveryCellOff := fun s =>
  ⟨by decide, _, exec_cls s, fbGet_clear, keeps_setFb s _⟩

end Sys2Proof.Machine

/-! The key and timer family's read of `DT` (spec/44_keys_timers.md R184): what its word decodes to, and what it answers. -/

namespace Sys2Proof

/-- A word of group F is decoded by its low byte. -/
theorem decodeWord_groupF (x : Reg) (kk : Byte) : decodeWord (wordXkk 0xF x kk) = decodeF (wordXkk 0xF x kk) := by
  simp [decodeWord]

theorem decodeWord_ldVxDt (x : Reg) : decodeWord (wordXkk 0xF x 0x07) = .ok (.ldVxDt x) := by
  rw [decodeWord_groupF]; simp [decodeF]

end Sys2Proof

namespace Sys2Proof.Machine

theorem exec_ldVxDt (x : Reg) (s : State) : exec (.ldVxDt x) s = .next (s.setReg x s.dt) := rfl

/-- Settles O38: the read is one write of `DT`'s value to `V[x]`. -/
theorem readDelayTimer : Obligations.ReadDelayTimer := fun x s =>
  ⟨decodeWord_ldVxDt x, _, exec_ldVxDt x s, s.reg_setReg_same x s.dt, keeps_setReg s x s.dt⟩

end Sys2Proof.Machine

/-! The rest of the decoder (spec/30_encoding.md R61 to R66): what the words of the remaining instructions decode to, that the
decoder undoes the encoder, and that a word of any row is the word of some instruction. -/

namespace Sys2Proof

/-! ### The words of the remaining instructions (R65) -/

theorem decodeWord_addReg (x y : Reg) : decodeWord (wordXyn 0x8 x y 4) = .ok (.addReg x y) := by
  rw [decodeWord_group8]; simp [decode8]

theorem decodeWord_subReg (x y : Reg) : decodeWord (wordXyn 0x8 x y 5) = .ok (.subReg x y) := by
  rw [decodeWord_group8]; simp [decode8]

theorem decodeWord_shr (x y : Reg) : decodeWord (wordXyn 0x8 x y 6) = .ok (.shr x y) := by
  rw [decodeWord_group8]; simp [decode8]

theorem decodeWord_subn (x y : Reg) : decodeWord (wordXyn 0x8 x y 7) = .ok (.subn x y) := by
  rw [decodeWord_group8]; simp [decode8]

theorem decodeWord_shl (x y : Reg) : decodeWord (wordXyn 0x8 x y 0xE) = .ok (.shl x y) := by
  rw [decodeWord_group8]; simp [decode8]

theorem decodeWord_groupB (nnn : Addr) : decodeWord (wordAddr 0xB nnn) = .ok (.jpV0 nnn) := by simp [decodeWord]

theorem decodeWord_groupC (x : Reg) (kk : Byte) : decodeWord (wordXkk 0xC x kk) = .ok (.rnd x kk) := by
  simp [decodeWord]

theorem decodeWord_groupD (x y : Reg) (n : Nibble) : decodeWord (wordXyn 0xD x y n) = .ok (.drw x y n) := by
  simp [decodeWord]

/-- A word of group E is decoded by its low byte. -/
theorem decodeWord_groupE (x : Reg) (kk : Byte) : decodeWord (wordXkk 0xE x kk) = decodeE (wordXkk 0xE x kk) := by
  simp [decodeWord]

theorem decodeWord_skp (x : Reg) : decodeWord (wordXkk 0xE x 0x9E) = .ok (.skp x) := by
  rw [decodeWord_groupE]; simp [decodeE]

theorem decodeWord_sknp (x : Reg) : decodeWord (wordXkk 0xE x 0xA1) = .ok (.sknp x) := by
  rw [decodeWord_groupE]; simp [decodeE]

theorem decodeWord_ldVxK (x : Reg) : decodeWord (wordXkk 0xF x 0x0A) = .ok (.ldVxK x) := by
  rw [decodeWord_groupF]; simp [decodeF]

theorem decodeWord_ldDtVx (x : Reg) : decodeWord (wordXkk 0xF x 0x15) = .ok (.ldDtVx x) := by
  rw [decodeWord_groupF]; simp [decodeF]

theorem decodeWord_ldStVx (x : Reg) : decodeWord (wordXkk 0xF x 0x18) = .ok (.ldStVx x) := by
  rw [decodeWord_groupF]; simp [decodeF]

theorem decodeWord_addI (x : Reg) : decodeWord (wordXkk 0xF x 0x1E) = .ok (.addI x) := by
  rw [decodeWord_groupF]; simp [decodeF]

theorem decodeWord_ldF (x : Reg) : decodeWord (wordXkk 0xF x 0x29) = .ok (.ldF x) := by
  rw [decodeWord_groupF]; simp [decodeF]

theorem decodeWord_ldB (x : Reg) : decodeWord (wordXkk 0xF x 0x33) = .ok (.ldB x) := by
  rw [decodeWord_groupF]; simp [decodeF]

theorem decodeWord_stRegs (x : Reg) : decodeWord (wordXkk 0xF x 0x55) = .ok (.stRegs x) := by
  rw [decodeWord_groupF]; simp [decodeF]

theorem decodeWord_ldRegs (x : Reg) : decodeWord (wordXkk 0xF x 0x65) = .ok (.ldRegs x) := by
  rw [decodeWord_groupF]; simp [decodeF]

/-! ### The decoder undoes the encoder -/

/-- Settles O2: each constructor's word is read back, by the lemma about that word. -/
theorem decodeOfEncodeIsTheInstruction : Obligations.DecodeOfEncodeIsTheInstruction
  | .cls => by decide
  | .ret => by decide
  | .jp nnn => decodeWord_group1 nnn
  | .call nnn => decodeWord_group2 nnn
  | .seImm x kk => decodeWord_group3 x kk
  | .sneImm x kk => decodeWord_group4 x kk
  | .seReg x y => decodeWord_group5 x y 0
  | .ldImm x kk => decodeWord_group6 x kk
  | .addImm x kk => decodeWord_group7 x kk
  | .ldReg x y => decodeWord_ldReg x y
  | .orReg x y => decodeWord_orReg x y
  | .andReg x y => decodeWord_andReg x y
  | .xorReg x y => decodeWord_xorReg x y
  | .addReg x y => decodeWord_addReg x y
  | .subReg x y => decodeWord_subReg x y
  | .shr x y => decodeWord_shr x y
  | .subn x y => decodeWord_subn x y
  | .shl x y => decodeWord_shl x y
  | .sneReg x y => decodeWord_group9 x y 0
  | .ldI nnn => decodeWord_groupA nnn
  | .jpV0 nnn => decodeWord_groupB nnn
  | .rnd x kk => decodeWord_groupC x kk
  | .drw x y n => decodeWord_groupD x y n
  | .skp x => decodeWord_skp x
  | .sknp x => decodeWord_sknp x
  | .ldVxDt x => decodeWord_ldVxDt x
  | .ldVxK x => decodeWord_ldVxK x
  | .ldDtVx x => decodeWord_ldDtVx x
  | .ldStVx x => decodeWord_ldStVx x
  | .addI x => decodeWord_addI x
  | .ldF x => decodeWord_ldF x
  | .ldB x => decodeWord_ldB x
  | .stRegs x => decodeWord_stRegs x
  | .ldRegs x => decodeWord_ldRegs x

/-- Settles O3: a word is put together again from the fields the decoder took out of it. -/
theorem encodeOfDecodeIsTheWord : Obligations.EncodeOfDecodeIsTheWord := fun _ _ => encode_of_decodeWord

/-! ### A word of a row is the word of an instruction (R63) -/

theorem fieldC_and (op m : Word) : fieldC (op &&& m) = fieldC op &&& fieldC m := BitVec.extractLsb'_and

theorem fieldN_and (op m : Word) : fieldN (op &&& m) = fieldN op &&& fieldN m := BitVec.extractLsb'_and

theorem fieldKk_and (op m : Word) : fieldKk (op &&& m) = fieldKk op &&& fieldKk m := BitVec.extractLsb'_and

/-- A mask that covers the group fixes it. -/
theorem fieldC_of_mask {op m p : Word} (hm : fieldC m = BitVec.allOnes 4) (h : op &&& m = p) : fieldC op = fieldC p := by
  rw [← h, fieldC_and, hm, BitVec.and_allOnes]

/-- A mask that covers the low nibble fixes it. -/
theorem fieldN_of_mask {op m p : Word} (hm : fieldN m = BitVec.allOnes 4) (h : op &&& m = p) : fieldN op = fieldN p := by
  rw [← h, fieldN_and, hm, BitVec.and_allOnes]

/-- A mask that covers the low byte fixes it. -/
theorem fieldKk_of_mask {op m p : Word} (hm : fieldKk m = BitVec.allOnes 8) (h : op &&& m = p) :
    fieldKk op = fieldKk p := by
  rw [← h, fieldKk_and, hm, BitVec.and_allOnes]

/-- A word of an `ADDR` row is the word of the row's instruction, whose address it holds. -/
theorem exists_encode_of_addr_row (f : Addr → Instr) {p op : Word} (hf : ∀ nnn, encode (f nnn) = wordAddr (fieldC p) nnn)
    (h : op &&& 0xF000 = p) : ∃ i, encode i = op :=
  ⟨f (fieldNnn op), (hf _).trans (wordAddr_of_fields (fieldC_of_mask (by decide) h))⟩

/-- A word of an `XKK` row is the word of the row's instruction. -/
theorem exists_encode_of_xkk_row (f : Reg → Byte → Instr) {p op : Word}
    (hf : ∀ x kk, encode (f x kk) = wordXkk (fieldC p) x kk) (h : op &&& 0xF000 = p) : ∃ i, encode i = op :=
  ⟨f (fieldX op) (fieldKk op), (hf _ _).trans (wordXkk_of_fields (fieldC_of_mask (by decide) h) rfl)⟩

/-- A word of an `XSUB` row is the word of the row's instruction. -/
theorem exists_encode_of_xsub_row (f : Reg → Instr) {p op : Word}
    (hf : ∀ x, encode (f x) = wordXkk (fieldC p) x (fieldKk p)) (h : op &&& 0xF0FF = p) : ∃ i, encode i = op :=
  ⟨f (fieldX op),
    (hf _).trans (wordXkk_of_fields (fieldC_of_mask (by decide) h) (fieldKk_of_mask (by decide) h))⟩

/-- A word of an `XY` row is the word of the row's instruction. -/
theorem exists_encode_of_xy_row (f : Reg → Reg → Instr) {p op : Word}
    (hf : ∀ x y, encode (f x y) = wordXyn (fieldC p) x y (fieldN p)) (h : op &&& 0xF00F = p) : ∃ i, encode i = op :=
  ⟨f (fieldX op) (fieldY op),
    (hf _ _).trans (wordXyn_of_fields (fieldC_of_mask (by decide) h) (fieldN_of_mask (by decide) h))⟩

/-- A word of an `XYN` row is the word of the row's instruction. -/
theorem exists_encode_of_xyn_row (f : Reg → Reg → Nibble → Instr) {p op : Word}
    (hf : ∀ x y n, encode (f x y n) = wordXyn (fieldC p) x y n) (h : op &&& 0xF000 = p) : ∃ i, encode i = op :=
  ⟨f (fieldX op) (fieldY op) (fieldN op), (hf _ _ _).trans (wordXyn_of_fields (fieldC_of_mask (by decide) h) rfl)⟩

/-- A word of a row with every bit fixed is the row's pattern. -/
theorem exists_encode_of_none_row (i : Instr) {op : Word} (h : op &&& 0xFFFF = encode i) : ∃ i, encode i = op :=
  ⟨i, h.symm.trans BitVec.and_allOnes⟩

/-- A word that matches a row of the map is the word of some instruction, row by row in the map's order. -/
theorem exists_encode_of_row (op : Word) : ∀ r ∈ opcodeTable, op &&& r.mask = r.pattern → ∃ i, encode i = op := by
  simp only [opcodeTable, List.forall_mem_append, List.forall_mem_cons, List.not_mem_nil, false_imp_iff, implies_true,
    and_true]
  exact
    ⟨⟨⟨exists_encode_of_none_row .cls, exists_encode_of_none_row .ret,
      exists_encode_of_addr_row .jp fun _ => rfl, exists_encode_of_addr_row .call fun _ => rfl,
      exists_encode_of_xkk_row .seImm fun _ _ => rfl, exists_encode_of_xkk_row .sneImm fun _ _ => rfl,
      exists_encode_of_xy_row .seReg fun _ _ => rfl, exists_encode_of_xkk_row .ldImm fun _ _ => rfl,
      exists_encode_of_xkk_row .addImm fun _ _ => rfl, exists_encode_of_xy_row .ldReg fun _ _ => rfl,
      exists_encode_of_xy_row .orReg fun _ _ => rfl, exists_encode_of_xy_row .andReg fun _ _ => rfl⟩,
      exists_encode_of_xy_row .xorReg fun _ _ => rfl, exists_encode_of_xy_row .addReg fun _ _ => rfl,
      exists_encode_of_xy_row .subReg fun _ _ => rfl, exists_encode_of_xy_row .shr fun _ _ => rfl,
      exists_encode_of_xy_row .subn fun _ _ => rfl, exists_encode_of_xy_row .shl fun _ _ => rfl,
      exists_encode_of_xy_row .sneReg fun _ _ => rfl, exists_encode_of_addr_row .ldI fun _ => rfl,
      exists_encode_of_addr_row .jpV0 fun _ => rfl, exists_encode_of_xkk_row .rnd fun _ _ => rfl,
      exists_encode_of_xyn_row .drw fun _ _ _ => rfl, exists_encode_of_xsub_row .skp fun _ => rfl⟩,
      exists_encode_of_xsub_row .sknp fun _ => rfl, exists_encode_of_xsub_row .ldVxDt fun _ => rfl,
      exists_encode_of_xsub_row .ldVxK fun _ => rfl, exists_encode_of_xsub_row .ldDtVx fun _ => rfl,
      exists_encode_of_xsub_row .ldStVx fun _ => rfl, exists_encode_of_xsub_row .addI fun _ => rfl,
      exists_encode_of_xsub_row .ldF fun _ => rfl, exists_encode_of_xsub_row .ldB fun _ => rfl,
      exists_encode_of_xsub_row .stRegs fun _ => rfl, exists_encode_of_xsub_row .ldRegs fun _ => rfl⟩

/-! ### The decoder rejects a word by its own name -/

theorem decodeError_of_decode0 {op : Word} {e : DecodeError} (h : decode0 op = .error e) : e = .unrecognized op := by
  unfold decode0 at h
  split_ifs at h
  cases h; rfl

theorem decodeError_of_decode8 {op : Word} {e : DecodeError} (h : decode8 op = .error e) : e = .unrecognized op := by
  unfold decode8 at h
  split at h <;> cases h
  rfl

theorem decodeError_of_decodeE {op : Word} {e : DecodeError} (h : decodeE op = .error e) : e = .unrecognized op := by
  unfold decodeE at h
  split_ifs at h
  cases h; rfl

theorem decodeError_of_decodeF {op : Word} {e : DecodeError} (h : decodeF op = .error e) : e = .unrecognized op := by
  unfold decodeF at h
  split_ifs at h
  cases h; rfl

theorem decodeError_of_lowNibble {op : Word} {i : Instr} {e : DecodeError}
    (h : (if fieldN op = 0 then .ok i else .error (.unrecognized op) : Except DecodeError Instr) = .error e) :
    e = .unrecognized op := by
  split_ifs at h
  cases h; rfl

/-- The only error of the decoder on a word is that the word is unrecognized (R66). -/
theorem decodeError_of_decodeWord {op : Word} {e : DecodeError} (h : decodeWord op = .error e) : e = .unrecognized op := by
  unfold decodeWord at h
  split at h
  case h_1 => exact decodeError_of_decode0 h
  case h_6 | h_10 => exact decodeError_of_lowNibble h
  case h_9 => exact decodeError_of_decode8 h
  case h_15 => exact decodeError_of_decodeE h
  case h_16 => exact decodeError_of_decodeF h
  all_goals cases h
  rfl

/-- Settles O4: a word that decodes matches the row of its instruction; a word that matched a row would be an instruction's
word, and decode. -/
theorem decoderFollowsTheOpcodeMap : Obligations.DecoderFollowsTheOpcodeMap := by
  intro op
  cases hdec : decodeWord op with
  | ok i => exact .inl ⟨i, rfl, matches_row_of_decodeWord hdec⟩
  | error e =>
    refine .inr ⟨by rw [decodeError_of_decodeWord hdec], fun r hmem hand => ?_⟩
    obtain ⟨i, rfl⟩ := exists_encode_of_row op r hmem hand
    rw [decodeOfEncodeIsTheInstruction i] at hdec
    cases hdec

/-- Settles O1: every word is closed, and the decoder is run on it. -/
theorem sampleWordsDecode : Obligations.SampleWordsDecode := by
  unfold Obligations.SampleWordsDecode
  decide

end Sys2Proof

/-! What each remaining instruction answers (spec/40_control_flow.md to spec/44_keys_timers.md), and the frames of two updates
one after the other. -/

namespace Sys2Proof.Machine

/-! ### Frames of two updates -/

/-- Two updates one after the other keep what both keep. -/
theorem KeepsAllBut.append {regs : Reg → Prop} {ps qs : List Part} {s t u : State} (h : KeepsAllBut regs ps s t)
    (h' : KeepsAllBut regs qs t u) : KeepsAllBut regs (ps ++ qs) s u :=
  (h.mono (fun _ hr => hr) (fun _ => List.mem_append_left _)).trans
    (h'.mono (fun _ hr => hr) (fun _ => List.mem_append_right _))

/-- A frame of fewer parts is a frame of more. -/
theorem KeepsAllBut.mono_parts {regs : Reg → Prop} {ps qs : List Part} {s t : State} (h : KeepsAllBut regs ps s t)
    (hp : ∀ p ∈ ps, p ∈ qs) : KeepsAllBut regs qs s t :=
  h.mono (fun _ hr => hr) hp

/-- A frame of no register is a frame of any. -/
theorem KeepsAllBut.mono_noReg {regs : Reg → Prop} {ps : List Part} {s t : State} (h : KeepsAllBut noReg ps s t) :
    KeepsAllBut regs ps s t :=
  h.mono (fun _ => False.elim) (fun _ hp => hp)

/-- A part that is kept after all may be taken out of the list. -/
theorem KeepsAllBut.of_kept {regs : Reg → Prop} {ps qs : List Part} {p : Part} {s t : State} (h : KeepsAllBut regs ps s t)
    (hp : p.kept s t) (hqs : ∀ q ∈ ps, q = p ∨ q ∈ qs) : KeepsAllBut regs qs s t := by
  refine ⟨h.1, fun q hq => ?_⟩
  by_cases hmem : q ∈ ps
  · rcases hqs q hmem with rfl | hq'
    · exact hp
    · exact absurd hq' hq
  · exact h.2 q hmem

/-- Two register writes, in either order, keep every other register and every part. -/
theorem keeps_setReg_setReg (s : State) (x y : Reg) (b c : Byte) :
    KeepsAllBut (fun r => r = x ∨ r = y) [] s ((s.setReg x b).setReg y c) :=
  ((keeps_setReg s x b).mono (fun _ => .inl) (fun _ hp => hp)).trans
    ((keeps_setReg _ y c).mono (fun _ => .inr) (fun _ hp => hp))

/-! ### Control flow -/

theorem exec_jpV0 (nnn : Addr) (s : State) :
    exec (.jpV0 nnn) s = .next (s.setPc (addrOperand nnn + (s.reg 0).setWidth 16)) := rfl

theorem State.push_of_illegal {s : State} (h : 16 < s.sp.toNat) (a : Word) : s.push a = .illegal := by
  rcases s.push_cases a with ⟨hsp, -⟩ | ⟨_, -⟩ | ⟨-, hpush⟩
  · rw [hsp] at h; exact absurd h (by decide)
  · omega
  · exact hpush

theorem State.pop_of_illegal {s : State} (h : 16 < s.sp.toNat) : s.pop = .illegal := by
  rcases s.pop_cases with ⟨hsp, -⟩ | ⟨_, -, -⟩ | ⟨-, hpop⟩
  · rw [hsp] at h; exact absurd h (by decide)
  · omega
  · exact hpop

theorem exec_call_of_illegal {s : State} (h : 16 < s.sp.toNat) (nnn : Addr) :
    exec (.call nnn) s = .fault .stackPointerOutOfRange := by
  simp only [exec, execCall, State.push_of_illegal h]

theorem exec_ret_of_illegal {s : State} (h : 16 < s.sp.toNat) : exec .ret s = .fault .stackPointerOutOfRange := by
  simp only [exec, execRet, State.pop_of_illegal h]

/-! ### Registers -/

theorem exec_addReg (x y : Reg) (s : State) :
    exec (.addReg x y) s = .next ((s.setReg x (s.reg x + s.reg y)).setReg vF (carryFlag (s.reg x) (s.reg y))) := rfl

theorem exec_subReg (x y : Reg) (s : State) :
    exec (.subReg x y) s = .next ((s.setReg x (s.reg x - s.reg y)).setReg vF (noBorrowFlag (s.reg x) (s.reg y))) := rfl

theorem exec_subn (x y : Reg) (s : State) :
    exec (.subn x y) s = .next ((s.setReg x (s.reg y - s.reg x)).setReg vF (noBorrowFlag (s.reg y) (s.reg x))) := rfl

theorem exec_shr (x y : Reg) (s : State) :
    exec (.shr x y) s = .next (s.shiftAfterFlag x (lowBitFlag (s.reg x)) (fun b => b >>> 1)) := rfl

theorem exec_shl (x y : Reg) (s : State) :
    exec (.shl x y) s = .next (s.shiftAfterFlag x (highBitFlag (s.reg x)) (fun b => b <<< 1)) := rfl

theorem exec_rnd (x : Reg) (kk : Byte) (s : State) : exec (.rnd x kk) s = .next (s.setReg x (kk &&& s.rnd)) := rfl

/-! ### Index register and memory -/

theorem exec_addI (x : Reg) (s : State) : exec (.addI x) s = .next (s.setI (s.i + (s.reg x).setWidth 16)) := rfl

theorem exec_ldF (x : Reg) (s : State) : exec (.ldF x) s = .next (s.setI (5 * (s.reg x).setWidth 16)) := rfl

theorem State.dataInBounds_iff {s : State} {last : Nat} : s.dataInBounds last = true ↔ s.indexAddr + last ≤ 0xFFF := by
  simp [dataInBounds]

theorem exec_ldB_of_le {s : State} (h : s.indexAddr + 2 ≤ 0xFFF) (x : Reg) :
    exec (.ldB x) s = .next (s.setMem (storeDigits (s.reg x) s.indexAddr s.mem)) :=
  if_pos (State.dataInBounds_iff.2 h)

theorem exec_ldB_of_gt {s : State} (h : s.indexAddr + 2 > 0xFFF) (x : Reg) :
    exec (.ldB x) s = .next (s.raiseFatal .outOfBoundsDataAccess) :=
  if_neg (by rw [State.dataInBounds_iff]; omega)

theorem exec_stRegs_of_le {s : State} {x : Reg} (h : s.indexAddr + x.toNat ≤ 0xFFF) :
    exec (.stRegs x) s = .next (s.setMem (storeRange s.v s.indexAddr (x.toNat + 1) s.mem)) :=
  if_pos (State.dataInBounds_iff.2 h)

theorem exec_stRegs_of_gt {s : State} {x : Reg} (h : s.indexAddr + x.toNat > 0xFFF) :
    exec (.stRegs x) s = .next (s.raiseFatal .outOfBoundsDataAccess) :=
  if_neg (by rw [State.dataInBounds_iff]; omega)

theorem exec_ldRegs_of_le {s : State} {x : Reg} (h : s.indexAddr + x.toNat ≤ 0xFFF) :
    exec (.ldRegs x) s = .next (s.setRegs (loadRange s.mem s.indexAddr (x.toNat + 1) s.v)) :=
  if_pos (State.dataInBounds_iff.2 h)

theorem exec_ldRegs_of_gt {s : State} {x : Reg} (h : s.indexAddr + x.toNat > 0xFFF) :
    exec (.ldRegs x) s = .next (s.raiseFatal .outOfBoundsDataAccess) :=
  if_neg (by rw [State.dataInBounds_iff]; omega)

/-! ### Display -/

theorem State.spriteInBounds_iff {s : State} {n : Nat} : s.spriteInBounds n = true ↔ s.indexAddr + n ≤ 4096 := by
  simp [spriteInBounds]

theorem exec_drw_of_le {s : State} {n : Nibble} (h : s.indexAddr + n.toNat ≤ 4096) (x y : Reg) :
    exec (.drw x y n) s =
      .next ((s.setReg vF (s.drawSprite x y n.toNat).2).setFb (s.drawSprite x y n.toNat).1) :=
  if_pos (State.spriteInBounds_iff.2 h)

theorem exec_drw_of_gt {s : State} {n : Nibble} (h : s.indexAddr + n.toNat > 4096) (x y : Reg) :
    exec (.drw x y n) s = .next (s.raiseFatal .outOfBoundsSpriteRead) :=
  if_neg (by rw [State.spriteInBounds_iff]; omega)

/-! ### Keys and timers -/

theorem exec_skp (x : Reg) (s : State) : exec (.skp x) s = .next (s.skipIf (keyDown s.keys (s.reg x))) := rfl

theorem exec_sknp (x : Reg) (s : State) : exec (.sknp x) s = .next (s.skipIf (!keyDown s.keys (s.reg x))) := rfl

theorem exec_ldVxK_of_some {s : State} {k : Byte} (h : leastKeyDown s.keys = some k) (x : Reg) :
    exec (.ldVxK x) s = .next (s.setReg x k) := by
  simp only [exec, execLdVxK, h]

theorem exec_ldVxK_of_none {s : State} (h : leastKeyDown s.keys = none) (x : Reg) :
    exec (.ldVxK x) s = .next ((s.setRun (.awaitingKey x)).setOutcome .awaitingInput) := by
  simp only [exec, execLdVxK, h]

theorem exec_ldDtVx (x : Reg) (s : State) : exec (.ldDtVx x) s = .next (s.setDt (s.reg x)) := rfl

theorem exec_ldStVx (x : Reg) (s : State) : exec (.ldStVx x) s = .next (s.setSt (s.reg x)) := rfl

end Sys2Proof.Machine

/-! The control flow family's `Bnnn`, the call and its return, and the stack instructions where `SP` is not legal
(spec/40_control_flow.md R100 to R105). -/

namespace Sys2Proof.Machine

/-- A byte as a 16-bit operand is zero-extended (R64). -/
theorem byte_setWidth_toNat (b : Byte) : (b.setWidth 16).toNat = b.toNat := BitVec.toNat_setWidth_of_le (by decide)

/-- The sum of an address and a byte, exact in 16 bits (R105, D25). -/
theorem addrOperand_add_byte_toNat (nnn : Addr) (b : Byte) :
    (addrOperand nnn + b.setWidth 16).toNat = nnn.toNat + b.toNat := by
  rw [BitVec.toNat_add, addrOperand_toNat, byte_setWidth_toNat]; omega

/-- Settles O6: the jump is one update of `PC`, by a sum that 16 bits hold exactly. -/
theorem jumpWithOffsetAddsV0 : Obligations.JumpWithOffsetAddsV0 := fun nnn s =>
  ⟨decodeWord_groupB nnn, _, exec_jpV0 nnn s, addrOperand_add_byte_toNat nnn (s.reg 0), keeps_setPc s _⟩

/-- Settles O9: neither operation of the stack controller has a slot at such an `SP`. -/
theorem illegalStackPointerStops : Obligations.IllegalStackPointerStops := fun nnn _ h =>
  ⟨exec_call_of_illegal h nnn, exec_ret_of_illegal h⟩

/-- Settles O10: the address popped is the one pushed, and the addresses below it are as before. -/
theorem returnUndoesCall : Obligations.ReturnUndoesCall := by
  intro nnn s hfree
  obtain ⟨-, hcall, -⟩ := callPushesAndJumps nnn s
  obtain ⟨t, hexec, -, hsp, hlive, hkeep⟩ := hcall hfree
  obtain ⟨-, hret, -⟩ := returnPopsTheAddress t
  obtain ⟨u, hexec', hsp', hlive', hkeep'⟩ := hret (by omega) (by omega)
  obtain ⟨hstack, hpc⟩ := List.append_inj' (hlive'.trans hlive) rfl
  have hsp_eq : u.sp = s.sp := BitVec.eq_of_toNat_eq (by omega)
  exact ⟨t, u, hexec, hexec', by simpa using hpc,
    (hkeep.trans hkeep').of_kept (p := .stack) ⟨hsp_eq, hstack⟩ (by simp)⟩

end Sys2Proof.Machine

/-! The register family's additions, subtractions and shifts with their flags, and the random byte
(spec/41_register_alu.md R127 to R132). -/

namespace Sys2Proof.Machine

/-! ### Flags and byte arithmetic as numbers -/

theorem flagByte_toNat (b : Bool) : (flagByte b).toNat = if b then 1 else 0 := by cases b <;> rfl

theorem carryFlag_toNat (a b : Byte) : (carryFlag a b).toNat = if a.toNat + b.toNat > 255 then 1 else 0 := by
  simp [carryFlag, flagByte_toNat]

theorem noBorrowFlag_toNat (a b : Byte) : (noBorrowFlag a b).toNat = if a.toNat ≥ b.toNat then 1 else 0 := by
  simp [noBorrowFlag, flagByte_toNat]

/-- A byte difference is the exact difference mod 256 (R128, R130). -/
theorem byte_toNat_sub (a b : Byte) : ((a - b).toNat : Int) = (a.toNat - b.toNat : Int) % 256 := by
  rw [BitVec.toNat_sub]; omega

theorem byte_and_one_toNat (a : Byte) : (a &&& 1).toNat = a.toNat % 2 := by
  rw [BitVec.toNat_and]; exact Nat.and_one_is_mod _

theorem lowBitFlag_toNat (a : Byte) : (lowBitFlag a).toNat = a.toNat % 2 := byte_and_one_toNat a

theorem highBitFlag_toNat (a : Byte) : (highBitFlag a).toNat = a.toNat / 128 := by
  rw [highBitFlag, byte_and_one_toNat, BitVec.toNat_ushiftRight, Nat.shiftRight_eq_div_pow]; omega

theorem byte_ushiftRight_one_toNat (a : Byte) : (a >>> 1).toNat = a.toNat / 2 := by
  rw [BitVec.toNat_ushiftRight, Nat.shiftRight_eq_div_pow]

theorem byte_shiftLeft_one_toNat (a : Byte) : (a <<< 1).toNat = a.toNat * 2 % 256 := by
  rw [BitVec.toNat_shiftLeft, Nat.shiftLeft_eq]

/-! ### A result and a flag (R127 to R131) -/

/-- A result written to `V[x]` stands there after the flag is written to `VF`, unless `V[x]` is `VF`. -/
theorem State.reg_of_result_then_flag (s : State) {x : Reg} (h : x ≠ vF) (b flag : Byte) :
    ((s.setReg x b).setReg vF flag).reg x = b := by
  simp [h]


theorem State.keeps_shiftAfterFlag (s : State) (x : Reg) (flag : Byte) (shift : Byte → Byte) :
    KeepsAllBut (fun r => r = x ∨ r = vF) [] s (s.shiftAfterFlag x flag shift) :=
  (keeps_setReg_setReg s vF x flag _).mono (fun _ => Or.symm) (fun _ hp => hp)

/-- `V[x]` is shifted as it stood, unless the flag was written to it. -/
theorem State.shiftAfterFlag_reg_of_ne (s : State) {x : Reg} (h : x ≠ vF) (flag : Byte) (shift : Byte → Byte) :
    (s.shiftAfterFlag x flag shift).reg x = shift (s.reg x) := by
  simp [shiftAfterFlag, h]

/-- `VF` keeps the flag, unless `V[x]` is `VF`. -/
theorem State.shiftAfterFlag_vF_of_ne (s : State) {x : Reg} (h : x ≠ vF) (flag : Byte) (shift : Byte → Byte) :
    (s.shiftAfterFlag x flag shift).reg vF = flag := by
  simp [shiftAfterFlag, h.symm]

/-- With `V[x]` being `VF` the flag itself is shifted (D8). -/
theorem State.shiftAfterFlag_vF (s : State) (flag : Byte) (shift : Byte → Byte) :
    (s.shiftAfterFlag vF flag shift).reg vF = shift flag := by
  simp [shiftAfterFlag]

/-! ### The statements -/

/-- Settles O17: the sum is written to `V[x]`, then the carry of the old values to `VF`. -/
theorem addSetsCarry : Obligations.AddSetsCarry := by
  intro x y s
  refine ⟨decodeWord_addReg x y, _, exec_addReg x y s, ?_, fun hx => ?_, keeps_setReg_setReg s x vF _ _⟩
  · rw [State.reg_setReg_same, carryFlag_toNat]
  · rw [s.reg_of_result_then_flag hx, BitVec.toNat_add]

/-- Settles O18: each difference is written to `V[x]`, then the no-borrow of the old values to `VF`. -/
theorem subtractSetsNoBorrow : Obligations.SubtractSetsNoBorrow := by
  intro x y s
  refine ⟨decodeWord_subReg x y, decodeWord_subn x y,
    ⟨_, exec_subReg x y s, ?_, fun hx => ?_, keeps_setReg_setReg s x vF _ _⟩,
    ⟨_, exec_subn x y s, ?_, fun hx => ?_, keeps_setReg_setReg s x vF _ _⟩⟩
  · rw [State.reg_setReg_same, noBorrowFlag_toNat]
  · rw [s.reg_of_result_then_flag hx, byte_toNat_sub]
  · rw [State.reg_setReg_same, noBorrowFlag_toNat]
  · rw [s.reg_of_result_then_flag hx, byte_toNat_sub]

/-- Settles O19: each shift writes the bit shifted out to `VF` and then shifts what `V[x]` holds, which for `x = 0xF` is the
flag. -/
theorem shiftsMoveTheBitOutToVF : Obligations.ShiftsMoveTheBitOutToVF := by
  intro x y s
  refine ⟨decodeWord_shr x y, decodeWord_shl x y,
    ⟨_, exec_shr x y s, s.keeps_shiftAfterFlag x _ _, fun hx => ⟨?_, ?_⟩, ?_⟩,
    ⟨_, exec_shl x y s, s.keeps_shiftAfterFlag x _ _, fun hx => ⟨?_, ?_⟩, ?_⟩⟩
  · rw [s.shiftAfterFlag_reg_of_ne hx, byte_ushiftRight_one_toNat]
  · rw [s.shiftAfterFlag_vF_of_ne hx, lowBitFlag_toNat]
  · rintro rfl
    rw [s.shiftAfterFlag_vF, byte_ushiftRight_one_toNat, lowBitFlag_toNat]; omega
  · rw [s.shiftAfterFlag_reg_of_ne hx, byte_shiftLeft_one_toNat]
  · rw [s.shiftAfterFlag_vF_of_ne hx, highBitFlag_toNat]
  · rintro rfl
    have hlt := (s.reg vF).isLt
    rw [s.shiftAfterFlag_vF, byte_shiftLeft_one_toNat, highBitFlag_toNat]; omega

/-- Settles O20: the one write is the byte AND of the immediate and the step's random byte. -/
theorem randomIsMasked : Obligations.RandomIsMasked := by
  intro x kk s
  refine ⟨decodeWord_groupC x kk, _, exec_rnd x kk s, fun k => ?_, keeps_setReg s x _⟩
  rw [State.reg_setReg_same, BitVec.getLsbD_and]

end Sys2Proof.Machine

/-! The index and memory family but for `Annn` (spec/42_index_memory.md R141 to R145). -/

namespace Sys2Proof.Machine

/-! ### Index register -/

/-- Settles O22: the one update of `I` is the sum in 16 bits. -/
theorem addToIndexWrapsAt65536 : Obligations.AddToIndexWrapsAt65536 := by
  intro x s
  refine ⟨decodeWord_addI x, _, exec_addI x s, ?_, keeps_setI s _⟩
  rw [State.setI_i, BitVec.toNat_add, byte_setWidth_toNat]

/-- Five times a byte, exact in 16 bits (R142). -/
theorem five_mul_byte_toNat (b : Byte) : (5 * b.setWidth 16 : Word).toNat = 5 * b.toNat := by
  have h5 : (5 : Word).toNat = 5 := rfl
  rw [BitVec.toNat_mul, byte_setWidth_toNat, h5]; omega

/-- Settles O23: the one update of `I` is a product that 16 bits hold exactly. -/
theorem glyphAddressIsFiveTimes : Obligations.GlyphAddressIsFiveTimes := fun x s =>
  ⟨decodeWord_ldF x, _, exec_ldF x s, five_mul_byte_toNat (s.reg x), keeps_setI s _⟩

/-! ### Stores and loads through `I` -/

/-- The three bytes stored by `Fx33` inside memory (R143). -/
theorem read_storeDigits_inside (b : Byte) (a : Nat) (m : Memory) (hm : m.wf = true) (hfit : a + 2 < Config.memSize) :
    (storeDigits b a m).read a = hundreds b ∧ (storeDigits b a m).read (a + 1) = tens b ∧
      (storeDigits b a m).read (a + 2) = units b := by
  have hm₁ := Memory.wf_write m hm a (hundreds b)
  have hm₂ := Memory.wf_write _ hm₁ (a + 1) (tens b)
  have ha₁ : a + 1 < Config.memSize := by omega
  have ha : a < Config.memSize := by omega
  unfold storeDigits
  refine ⟨?_, ?_, ?_⟩
  · rw [Memory.read_write_of_ne _ _ _ _ (by omega), Memory.read_write_of_ne _ _ _ _ (by omega),
      Memory.read_write _ hm, if_pos ⟨rfl, ha⟩]
  · rw [Memory.read_write_of_ne _ _ _ _ (by omega), Memory.read_write _ hm₁, if_pos ⟨rfl, ha₁⟩]
  · rw [Memory.read_write _ hm₂, if_pos ⟨rfl, hfit⟩]

/-- Settles O24: three writes, one after the other, to three addresses of memory. -/
theorem storeDecimalDigits : Obligations.StoreDecimalDigits := by
  intro x s
  refine ⟨decodeWord_ldB x, fun hm hfit => ?_⟩
  obtain ⟨hh, ht, hu⟩ := read_storeDigits_inside (s.reg x) s.indexAddr s.mem hm (show _ < 4096 by omega)
  refine ⟨_, exec_ldB_of_le hfit x, ?_, ?_, ?_, fun a ha => ?_, keeps_setMem s _⟩
  · rw [State.setMem_mem, hh, hundreds_toNat]
  · rw [State.setMem_mem, ht, tens_toNat]
  · rw [State.setMem_mem, hu, units_toNat]
  · exact read_storeDigits_outside _ _ _ _ (by omega)

/-- A register stored by a range store is at its place (R144). -/
theorem read_storeRange_reg {s : State} {x k : Reg} (hm : s.mem.wf = true) (hfit : s.indexAddr + x.toNat ≤ 0xFFF)
    (hk : k.toNat ≤ x.toNat) :
    (storeRange s.v s.indexAddr (x.toNat + 1) s.mem).read (s.indexAddr + k.toNat) = s.reg k :=
  read_storeRange_inside s.v s.indexAddr (x.toNat + 1) s.mem hm (by omega) (show _ ≤ 4096 by omega) k.toNat (by omega)

/-- Settles O25: inside the range memory holds the registers, outside it what it held. -/
theorem storeRegisterRange : Obligations.StoreRegisterRange := fun x s =>
  ⟨decodeWord_stRegs x, fun hm hfit =>
    ⟨_, exec_stRegs_of_le hfit, fun _ hk => read_storeRange_reg hm hfit hk,
      fun a ha => read_storeRange_outside _ _ _ _ a (by omega), keeps_setMem s _⟩⟩

/-- Register `k` after a load of `V[0..x]` from address `a` (R145). -/
theorem reg_setRegs_loadRange (s : State) (m : Memory) (a : Nat) (x k : Reg) :
    (s.setRegs (loadRange m a (x.toNat + 1) s.v)).reg k =
      if k.toNat ≤ x.toNat then m.read (a + k.toNat) else s.reg k := by
  rw [State.reg_setRegs, getElem_loadRange]
  simp only [Nat.lt_succ_iff, State.reg]

/-- A range load keeps the registers above the range and everything else. -/
theorem keeps_setRegs_loadRange (s : State) (m : Memory) (a : Nat) (x : Reg) :
    KeepsAllBut (fun r => r.toNat ≤ x.toNat) [] s (s.setRegs (loadRange m a (x.toNat + 1) s.v)) :=
  ⟨fun r hr => by rw [reg_setRegs_loadRange, if_neg hr], fun p _ => by cases p <;> simp [Part.kept, State.live]⟩

/-- Settles O26: the registers of the range are what memory holds, the others what they were. -/
theorem loadRegisterRange : Obligations.LoadRegisterRange := fun x s =>
  ⟨decodeWord_ldRegs x, fun hfit =>
    ⟨_, exec_ldRegs_of_le hfit, fun k hk => by rw [reg_setRegs_loadRange, if_pos hk],
      keeps_setRegs_loadRange s s.mem s.indexAddr x⟩⟩

/-- Settles O27: the whole range is checked first, and a range that leaves memory raises. -/
theorem outOfRangeDataAccessRaises : Obligations.OutOfRangeDataAccessRaises := fun x s =>
  ⟨fun h => ⟨_, exec_ldB_of_gt h x, rfl, rfl, keeps_raiseFatal s _⟩, fun h =>
    ⟨⟨_, exec_stRegs_of_gt h, rfl, rfl, keeps_raiseFatal s _⟩, ⟨_, exec_ldRegs_of_gt h, rfl, rfl, keeps_raiseFatal s _⟩⟩⟩

/-- Settles O28: the store leaves `I` alone, so the load reads the addresses that were written. -/
theorem storedRegistersLoadBack : Obligations.StoredRegistersLoadBack := by
  intro x s fresh hm hfit
  obtain ⟨-, hstore⟩ := storeRegisterRange x s
  obtain ⟨t, hexec, hin, -, hkeep⟩ := hstore hm hfit
  have hindex : t.indexAddr = s.indexAddr := congrArg BitVec.toNat (hkeep.2 .index (by decide))
  obtain ⟨-, hload⟩ := loadRegisterRange x { t with v := fresh }
  obtain ⟨u, hexec', hreg, -⟩ := hload (hindex ▸ hfit)
  refine ⟨t, u, hexec, hexec', fun k hk => ?_⟩
  calc u.reg k = t.mem.read (t.indexAddr + k.toNat) := hreg k hk
    _ = s.reg k := by rw [hindex, hin k hk]

/-- Settles O29: the fetch at `PC` reads the first two bytes of the range. -/
theorem storeIsSeenByTheNextFetch : Obligations.StoreIsSeenByTheNextFetch := by
  intro x s hm hi hx hfit
  obtain ⟨-, hstore⟩ := storeRegisterRange x s
  obtain ⟨t, hexec, hin, -, hkeep⟩ := hstore hm hfit
  have hpc : t.pc.toNat = s.indexAddr := by rw [hkeep.2 .pc (by decide), ← hi]; rfl
  have h₀ : t.mem.read s.indexAddr = s.reg 0 := hin 0 (Nat.zero_le _)
  have h₁ : t.mem.read (s.indexAddr + 1) = s.reg 1 := hin 1 hx
  refine ⟨t, hexec, ?_⟩
  rw [State.fetch_of_le t (by omega), hpc, h₀, h₁]

end Sys2Proof.Machine

/-! The display family's draw and the two copies handed to the environment (spec/43_display.md R164, R166, spec/20_memory.md
R54). -/

namespace Sys2Proof.Machine

/-! ### The draw (R166) -/

/-- Every cell of the screen after a draw: its old value XOR the picture's bit. -/
theorem State.fbGet_drawSprite (s : State) (x y : Reg) (n cx cy : Nat) (hx : cx ≤ 63) (hy : cy ≤ 31) :
    fbGet (s.drawSprite x y n).1 cx cy = (fbGet s.fb cx cy ^^ s.spriteBit x y n cx cy) :=
  fbGet_drawRows s.mem s.indexAddr (s.reg x).toNat (s.reg y).toNat n _ cx cy hx hy

/-- `VF` after a draw of at least one row (D16). -/
theorem State.drawSprite_flag (s : State) (x y : Reg) {n : Nat} (hn : 0 < n) :
    (s.drawSprite x y n).2 = if (fbGet s.fb ((s.reg x).toNat + 7) ((s.reg y).toNat + n - 1) ^^
      (s.mem.read (s.indexAddr + n - 1)).getLsbD 0) then 0 else 1 := by
  obtain ⟨m, rfl⟩ : ∃ m, n = m + 1 := ⟨n - 1, by omega⟩
  exact drawRows_flag _ _ _ _ m _

/-- `VF` after a draw of no row. -/
theorem State.drawSprite_flag_zero (s : State) (x y : Reg) : (s.drawSprite x y 0).2 = s.reg vF := rfl

/-- The picture depends on memory, `I` and the two coordinates. -/
theorem State.spriteBit_congr {s t : State} {x y : Reg} (hmem : ∀ a, t.mem.read a = s.mem.read a) (hi : t.i = s.i)
    (hx : t.reg x = s.reg x) (hy : t.reg y = s.reg y) (n cx cy : Nat) :
    t.spriteBit x y n cx cy = s.spriteBit x y n cx cy := by
  simp only [spriteBit, indexAddr, hmem, hi, hx, hy]

/-- A draw writes `VF` and the screen. -/
theorem keeps_setReg_setFb (s : State) (x : Reg) (b : Byte) (f : FrameBuffer) :
    KeepsAllBut (· = x) [.screen] s ((s.setReg x b).setFb f) :=
  (keeps_setReg s x b).append (keeps_setFb _ f).mono_noReg

/-- Settles O31: row by row and pixel by pixel the draw XORs each cell once, and `VF` follows the last pixel. -/
theorem drawXorsTheSprite : Obligations.DrawXorsTheSprite := by
  intro x y n s
  refine ⟨decodeWord_groupD x y n, fun hfit => ⟨_, exec_drw_of_le hfit x y, fun cx cy hx hy => ?_, fun hn => ?_,
    fun hn => ?_, keeps_setReg_setFb s vF _ _⟩⟩
  · exact s.fbGet_drawSprite x y n.toNat cx cy hx hy
  · rw [State.reg_setFb, State.reg_setReg_same, s.drawSprite_flag x y hn]
  · rw [State.reg_setFb, State.reg_setReg_same, hn, s.drawSprite_flag_zero]

/-- Settles O32: the bound is checked before any pixel. -/
theorem outOfRangeSpriteRaises : Obligations.OutOfRangeSpriteRaises := fun x y _ s h =>
  ⟨_, exec_drw_of_gt h x y, rfl, rfl, keeps_raiseFatal s _⟩

/-- Settles O33: the second draw finds the same picture at the same place, and XOR with the same bit twice is nothing. -/
theorem drawingTwiceRestoresTheScreen : Obligations.DrawingTwiceRestoresTheScreen := by
  intro x y n s hfit hx hy
  obtain ⟨-, hdraw⟩ := drawXorsTheSprite x y n s
  obtain ⟨t, hexec, hcell, -, -, hreg, hpart⟩ := hdraw hfit
  have hi : t.i = s.i := hpart .index (by decide)
  have hindex : t.indexAddr = s.indexAddr := congrArg BitVec.toNat hi
  obtain ⟨-, hdraw'⟩ := drawXorsTheSprite x y n t
  obtain ⟨u, hexec', hcell', -⟩ := hdraw' (hindex ▸ hfit)
  refine ⟨t, u, hexec, hexec', fun cx cy => ?_⟩
  by_cases hs : cx ≤ 63 ∧ cy ≤ 31
  · obtain ⟨hcx, hcy⟩ := hs
    have hbit := State.spriteBit_congr (hpart .memory (by decide)) hi (hreg x hx) (hreg y hy) n.toNat cx cy
    rw [hcell' cx cy hcx hcy, hcell cx cy hcx hcy, hbit, Bool.xor_assoc, Bool.xor_self, Bool.xor_false]
  · rw [fbGet_of_not_inScreen _ _ _ hs, fbGet_of_not_inScreen _ _ _ hs]

/-! ### The copies (R54, R164) -/

theorem State.snapshot_length (s : State) : s.snapshot.length = 2048 := by simp [snapshot]

theorem State.dumpMemory_length (s : State) : s.dumpMemory.length = 4096 := by simp [dumpMemory, Config.memSize]

/-- Cell `(cx, cy)` is at index `cy*64 + cx` of the snapshot. -/
theorem State.snapshot_getElem? (s : State) {cx cy : Nat} (hx : cx ≤ 63) (hy : cy ≤ 31) :
    s.snapshot[cy * 64 + cx]? = some (fbGet s.fb cx cy) := by
  have hlt : cy * 64 + cx < 2048 := by omega
  have hcol : (cy * 64 + cx) % 64 = cx := by omega
  have hrow : (cy * 64 + cx) / 64 = cy := by omega
  rw [snapshot, List.getElem?_map, List.getElem?_range hlt, Option.map_some, hcol, hrow]

/-- Byte `a` is at index `a` of the dump. -/
theorem State.dumpMemory_getElem? (s : State) {a : Nat} (ha : a ≤ 0xFFF) : s.dumpMemory[a]? = some (s.mem.read a) := by
  have hlt : a < Config.memSize := show a < 4096 by omega
  rw [dumpMemory, List.getElem?_map, List.getElem?_range hlt, Option.map_some]

/-- Settles O34: both operations answer the state itself, and each copy lists what it copies in index order. -/
theorem snapshotAndDumpShowTheState : Obligations.SnapshotAndDumpShowTheState := fun s =>
  ⟨rfl, rfl, rfl, s.snapshot_length, fun _ _ => s.snapshot_getElem?, rfl, s.dumpMemory_length,
    fun _ => s.dumpMemory_getElem?⟩

end Sys2Proof.Machine

/-! The key and timer family but for `Fx07` (spec/44_keys_timers.md R180 to R187): the key skips, the key wait, the timer
writes, and the ticks. -/

namespace Sys2Proof.Machine

/-! ### Keys -/

/-- A number is a key that is down exactly when it is below 16 and its entry is set (R180, D18). -/
theorem keyDown_iff {keys : Config.Keys} {k : Byte} :
    keyDown keys k = true ↔ ∃ h : k.toNat < 16, keys[k.toNat] = true := by
  by_cases h : k.toNat < 16
  · simp [keyDown_of_lt keys k h, h]
  · simp [keyDown_of_ge keys k (by omega), h]

/-- With no entry set there is no key to deliver. -/
theorem leastKeyDown_of_none_down {keys : Config.Keys} (h : ∀ k : Fin 16, keys[k] = false) :
    leastKeyDown keys = none := by
  refine leastKeyDown_eq_none.2 fun k => ?_
  rw [← Bool.not_eq_true, keyDown_iff]
  rintro ⟨hk, hdown⟩
  exact absurd ((h ⟨k.toNat, hk⟩).symm.trans hdown) (by decide)

theorem byte_ofNat_fin_toNat (k : Fin 16) : (BitVec.ofNat 8 k.val).toNat = k.val := by
  rw [BitVec.toNat_ofNat]; omega

/-- Settles O35: each skip is one update of `PC`, on the key being down and on its not being so. -/
theorem keySkips : Obligations.KeySkips := by
  intro x s
  refine ⟨decodeWord_skp x, decodeWord_sknp x, _, _, exec_skp x s, keeps_skipIf s _, exec_sknp x s, keeps_skipIf s _,
    fun hdown => ?_, fun hup => ?_⟩
  · have hkey := keyDown_iff.2 hdown
    simp [hkey]
  · have hkey := Bool.eq_false_iff.2 (mt keyDown_iff.1 hup)
    simp [hkey]

/-- Entering the wait changes the run state and the outcome. -/
theorem keeps_setRun_setOutcome (s : State) (r : RunState) (o : StepOutcome) :
    KeepsAllBut noReg [.run, .outcome] s ((s.setRun r).setOutcome o) :=
  (keeps_setRun s r).append (keeps_setOutcome _ o)

/-- Settles O36: the search for the least key decides between one register write and the wait. -/
theorem waitForKeyDeliversOrWaits : Obligations.WaitForKeyDeliversOrWaits := by
  intro x s
  refine ⟨decodeWord_ldVxK x, fun k hk hleast => ?_, fun hnone => ?_⟩
  · refine ⟨_, exec_ldVxK_of_some (leastKeyDown_eq_some s.keys k hk hleast) x, ?_, keeps_setReg s x _⟩
    rw [State.reg_setReg_same, byte_ofNat_fin_toNat]
  · exact ⟨_, exec_ldVxK_of_none (leastKeyDown_of_none_down hnone) x, rfl, rfl, keeps_setRun_setOutcome s _ _⟩

theorem State.waitForKey_of_some {s : State} {k : Byte} (h : leastKeyDown s.keys = some k) (x : Reg) :
    s.waitForKey x = (s.setReg x k).setRun .ready := by
  simp only [waitForKey, h]

theorem State.waitForKey_of_none {s : State} (h : leastKeyDown s.keys = none) (x : Reg) :
    s.waitForKey x = s.setOutcome .awaitingInput := by
  simp only [waitForKey, h]

/-- Settles O37: a waiting step puts its inputs in place and then makes the same search, with no fetch. -/
theorem waitingStepDeliversOrWaits : Obligations.WaitingStepDeliversOrWaits := by
  intro x s keys b hrun
  have hinputs := keeps_withInputs s keys b
  rw [State.stepWith_awaiting hrun]
  refine ⟨fun k hk hleast => ?_, fun hnone => ?_⟩
  · have hkey : leastKeyDown (s.withInputs keys b).keys = _ := leastKeyDown_eq_some keys k hk hleast
    refine ⟨_, rfl, ?_⟩
    rw [State.waitForKey_of_some hkey]
    refine ⟨?_, rfl, rfl, ?_⟩
    · rw [State.reg_setRun, State.reg_setReg_same, byte_ofNat_fin_toNat]
    · exact ((hinputs.mono_noReg.append (keeps_setReg _ x _)).append (keeps_setRun _ _).mono_noReg).mono_parts (by decide)
  · have hkey : leastKeyDown (s.withInputs keys b).keys = none := leastKeyDown_of_none_down hnone
    refine ⟨_, rfl, ?_⟩
    rw [State.waitForKey_of_none hkey]
    exact ⟨rfl, (hinputs.append (keeps_setOutcome _ _)).mono_parts (by decide)⟩

/-! ### Timers -/

/-- Settles O39: each write is one update of its timer. -/
theorem setTimers : Obligations.SetTimers := fun x s =>
  ⟨⟨decodeWord_ldDtVx x, _, exec_ldDtVx x s, rfl, keeps_setDt s _⟩,
    ⟨decodeWord_ldStVx x, _, exec_ldStVx x s, rfl, keeps_setSt s _⟩⟩

/-- `n` ticks at once are `n` single ticks (R187). -/
theorem State.tickTimes_eq_iterate (s : State) (n : Nat) : s.tickTimes n = State.tick^[n] s := by
  induction n generalizing s with
  | zero => rfl
  | succ n ih => rw [tickTimes_succ, ih, Function.iterate_succ_apply]

/-- Settles O40: a tick is one countdown of each timer, and `n` countdowns take `n`. -/
theorem tickCountsBothTimersDown : Obligations.TickCountsBothTimersDown := fun s n =>
  ⟨⟨_, rfl, countDown_toNat s.dt, countDown_toNat s.st, keeps_tick s⟩, s.tickTimes_eq_iterate n,
    countDownTimes_toNat n s.dt, countDownTimes_toNat n s.st⟩

end Sys2Proof.Machine

/-! What the execute phase may write and read (spec/10_state.md R28), how it may end (spec/60_exceptions.md R201, R205). -/

namespace Sys2Proof.Machine

/-! ### Everything an instruction with more than one outcome can do -/

theorem exec_call_next {nnn : Addr} {s t : State} (h : exec (.call nnn) s = .next t) :
    (∃ hfree : s.sp.toNat < 16,
      t = (s.setStack (s.stack.set s.sp.toNat s.pc hfree) (s.sp + 1)).setPc (addrOperand nnn)) ∨
    t = s.report .stackOverflow := by
  rcases Nat.lt_trichotomy s.sp.toNat 16 with hfree | hfull | hillegal
  · rw [exec_call_of_free hfree] at h; cases h; exact .inl ⟨hfree, rfl⟩
  · rw [exec_call_of_full hfull] at h; cases h; exact .inr rfl
  · rw [exec_call_of_illegal hillegal] at h; cases h

theorem exec_ret_next {s t : State} (h : exec .ret s = .next t) :
    (∃ hlive : 0 < s.sp.toNat ∧ s.sp.toNat ≤ 16,
      t = (s.setStack s.stack (s.sp - 1)).setPc (s.stack[s.sp.toNat - 1]'(by omega))) ∨
    t = s.report .stackUnderflow := by
  rcases Nat.eq_zero_or_pos s.sp.toNat with hempty | hpos
  · rw [exec_ret_of_empty hempty] at h; cases h; exact .inr rfl
  · by_cases hle : s.sp.toNat ≤ 16
    · rw [exec_ret_of_live hpos hle] at h; cases h; exact .inl ⟨⟨hpos, hle⟩, rfl⟩
    · rw [exec_ret_of_illegal (by omega)] at h; cases h

/-- A bounds check answers one of two next states. -/
theorem next_of_ite {c : Prop} [Decidable c] {t u v : State} (h : (if c then .next t else .next u : Result) = .next v) :
    v = t ∨ v = u := by
  split at h <;> cases h
  · exact .inl rfl
  · exact .inr rfl

theorem exec_drw_next {x y : Reg} {n : Nibble} {s t : State} (h : exec (.drw x y n) s = .next t) :
    t = (s.setReg vF (s.drawSprite x y n.toNat).2).setFb (s.drawSprite x y n.toNat).1 ∨
    t = s.raiseFatal .outOfBoundsSpriteRead :=
  next_of_ite h

theorem exec_ldB_next {x : Reg} {s t : State} (h : exec (.ldB x) s = .next t) :
    t = s.setMem (storeDigits (s.reg x) s.indexAddr s.mem) ∨ t = s.raiseFatal .outOfBoundsDataAccess :=
  next_of_ite h

theorem exec_stRegs_next {x : Reg} {s t : State} (h : exec (.stRegs x) s = .next t) :
    t = s.setMem (storeRange s.v s.indexAddr (x.toNat + 1) s.mem) ∨ t = s.raiseFatal .outOfBoundsDataAccess :=
  next_of_ite h

theorem exec_ldRegs_next {x : Reg} {s t : State} (h : exec (.ldRegs x) s = .next t) :
    t = s.setRegs (loadRange s.mem s.indexAddr (x.toNat + 1) s.v) ∨ t = s.raiseFatal .outOfBoundsDataAccess :=
  next_of_ite h

theorem exec_ldVxK_next {x : Reg} {s t : State} (h : exec (.ldVxK x) s = .next t) :
    (∃ k, t = s.setReg x k) ∨ t = (s.setRun (.awaitingKey x)).setOutcome .awaitingInput := by
  cases hkey : leastKeyDown s.keys with
  | some k => rw [exec_ldVxK_of_some hkey] at h; cases h; exact .inl ⟨k, rfl⟩
  | none => rw [exec_ldVxK_of_none hkey] at h; cases h; exact .inr rfl

/-! ### The writes (R28) -/

/-- A draw of no row writes back the flag it found. -/
theorem keeps_drawn (s : State) (x y : Reg) (n : Nibble) :
    KeepsAllBut (fun r => r = vF ∧ n ≠ 0) [.screen] s
      ((s.setReg vF (s.drawSprite x y n.toNat).2).setFb (s.drawSprite x y n.toNat).1) := by
  by_cases hn : n = 0
  · subst hn
    have hflag : (s.drawSprite x y (0 : Nibble).toNat).2 = s.reg vF := s.drawSprite_flag_zero x y
    rw [hflag, State.setReg_reg_self]
    exact (keeps_setFb s _).mono_noReg
  · exact (keeps_setReg_setFb s vF _ _).mono (fun _ hr => ⟨hr, hn⟩) (fun _ hp => hp)

/-- Settles O57: each instruction is a few named updates, and its row marks what they write. -/
theorem accessTableBoundsTheWrites : Obligations.AccessTableBoundsTheWrites := by
  intro i s t h
  cases i with
  | cls => cases h; exact keeps_setFb s _
  | ret =>
    rcases exec_ret_next h with ⟨-, rfl⟩ | rfl
    · exact (keeps_setStack_setPc s _ _ _).mono_parts (by simp [writesPart])
    · exact (keeps_report s _).mono_parts (by simp [writesPart])
  | call =>
    rcases exec_call_next h with ⟨-, rfl⟩ | rfl
    · exact (keeps_setStack_setPc s _ _ _).mono_parts (by simp [writesPart])
    · exact (keeps_report s _).mono_parts (by simp [writesPart])
  | jp | jpV0 => cases h; exact keeps_setPc s _
  | seImm | sneImm | seReg | sneReg | skp | sknp => cases h; exact keeps_skipIf s _
  | ldImm x | addImm x | ldReg x | orReg x | andReg x | xorReg x | rnd x | ldVxDt x =>
    cases h; exact keeps_setReg s x _
  | addReg x | subReg x | subn x => cases h; exact keeps_setReg_setReg s x vF _ _
  | shr x | shl x => cases h; exact s.keeps_shiftAfterFlag x _ _
  | ldI | addI | ldF => cases h; exact keeps_setI s _
  | ldDtVx => cases h; exact keeps_setDt s _
  | ldStVx => cases h; exact keeps_setSt s _
  | drw x y n =>
    rcases exec_drw_next h with rfl | rfl
    · exact (keeps_drawn s x y n).mono_parts (by simp [writesPart])
    · exact (keeps_raiseFatal s _).mono_noReg.mono_parts (by simp [writesPart])
  | ldVxK x =>
    rcases exec_ldVxK_next h with ⟨k, rfl⟩ | rfl
    · exact (keeps_setReg s x k).mono_parts (by simp [writesPart])
    · exact (keeps_setRun_setOutcome s _ _).mono_noReg
  | ldB =>
    rcases exec_ldB_next h with rfl | rfl
    · exact (keeps_setMem s _).mono_parts (by simp [writesPart])
    · exact (keeps_raiseFatal s _).mono_parts (by simp [writesPart])
  | stRegs =>
    rcases exec_stRegs_next h with rfl | rfl
    · exact (keeps_setMem s _).mono_parts (by simp [writesPart])
    · exact (keeps_raiseFatal s _).mono_parts (by simp [writesPart])
  | ldRegs x =>
    rcases exec_ldRegs_next h with rfl | rfl
    · exact (keeps_setRegs_loadRange s _ _ x).mono_parts (by simp [writesPart])
    · exact (keeps_raiseFatal s _).mono_noReg

/-! ### The end of the execute phase -/

/-- Which instruction raises which fatal error (R205). -/
def mayRaise (i : Instr) : FatalKind → Prop
  | .outOfBoundsFetch      => False
  | .outOfBoundsSpriteRead => ∃ x y n, i = .drw x y n
  | .outOfBoundsDataAccess => ∃ x, i = .ldB x ∨ i = .stRegs x ∨ i = .ldRegs x

/-- How the execute phase of `i` may leave the run state and the outcome. -/
inductive ExecEnd (i : Instr) (s t : State) : Prop
  /-- Both as they were. -/
  | quiet (hrun : t.run = s.run) (hout : t.outcome = s.outcome)
  /-- A report of the stack controller (R208). -/
  | reports (k : ReportKind) (hrun : t.run = s.run) (hout : t.outcome = .reported k)
  /-- The key wait is entered (R183). -/
  | waits (x : Reg) (hrun : t.run = .awaitingKey x) (hout : t.outcome = .awaitingInput)
  /-- A fatal error is taken, and nothing else is done (R206). -/
  | raises (k : FatalKind) (ht : t = s.raiseFatal k) (hk : mayRaise i k)

/-- An instruction whose row marks neither the run state nor the outcome leaves both. -/
theorem ExecEnd.of_unmarked {i : Instr} {s t : State} (h : exec i s = .next t) (hrun : Part.run ∉ writesPart i)
    (hout : Part.outcome ∉ writesPart i) : ExecEnd i s t :=
  have hkeep := accessTableBoundsTheWrites i s t h
  .quiet (hkeep.2 _ hrun) (hkeep.2 _ hout)

/-- Every execute phase that answers a next state ends in one of the four ways. -/
theorem execEnd_of_exec {i : Instr} {s t : State} (h : exec i s = .next t) : ExecEnd i s t := by
  cases i with
  | ret =>
    rcases exec_ret_next h with ⟨-, rfl⟩ | rfl
    · exact .quiet rfl rfl
    · exact .reports _ rfl rfl
  | call =>
    rcases exec_call_next h with ⟨-, rfl⟩ | rfl
    · exact .quiet rfl rfl
    · exact .reports _ rfl rfl
  | drw x y n =>
    rcases exec_drw_next h with rfl | ht
    · exact .quiet rfl rfl
    · exact .raises _ ht ⟨x, y, n, rfl⟩
  | ldVxK x =>
    rcases exec_ldVxK_next h with ⟨k, rfl⟩ | rfl
    · exact .quiet rfl rfl
    · exact .waits x rfl rfl
  | ldB x =>
    rcases exec_ldB_next h with rfl | ht
    · exact .quiet rfl rfl
    · exact .raises _ ht ⟨x, .inl rfl⟩
  | stRegs x =>
    rcases exec_stRegs_next h with rfl | ht
    · exact .quiet rfl rfl
    · exact .raises _ ht ⟨x, .inr (.inl rfl)⟩
  | ldRegs x =>
    rcases exec_ldRegs_next h with rfl | ht
    · exact .quiet rfl rfl
    · exact .raises _ ht ⟨x, .inr (.inr rfl)⟩
  | _ => exact .of_unmarked h (by simp [writesPart]) (by simp [writesPart])

/-- Settles O48: of the four ends only the fatal one leaves a faulted state, and it is one `raise`. -/
theorem fatalErrorsArePrecise : Obligations.FatalErrorsArePrecise := by
  intro i s t k hready hexec hfault
  cases execEnd_of_exec hexec with
  | quiet hrun => rw [hrun, hready] at hfault; cases hfault
  | reports _ hrun => rw [hrun, hready] at hfault; cases hfault
  | waits x hrun => rw [hrun] at hfault; cases hfault
  | raises k' ht hk =>
    subst ht
    cases hfault
    exact ⟨keeps_raiseFatal s k, rfl, by cases k <;> exact hk⟩

/-! ### The reads of the inputs and the timers (R28) -/

/-- `s` with functions applied to its two inputs and its two timers. -/
def State.mapFree (s : State) (keys : Config.Keys → Config.Keys) (rnd st dt : Byte → Byte) : State :=
  { s with keys := keys s.keys, rnd := rnd s.rnd, st := st s.st, dt := dt s.dt }

/-- A choice between two next states, carried on. -/
theorem Result.andThen_ite (c : Prop) [Decidable c] (t u : State) (f : State → State) :
    Result.andThen (if c then .next t else .next u) f = if c then .next (f t) else .next (f u) := by
  split <;> rfl

section
variable (s : State) (keys : Config.Keys → Config.Keys) (rnd st dt : Byte → Byte)

theorem exec_call_mapFree (nnn : Addr) :
    exec (.call nnn) (s.mapFree keys rnd st dt) =
      Result.andThen (exec (.call nnn) s) (fun t => t.mapFree keys rnd st dt) := by
  have hsp : (s.mapFree keys rnd st dt).sp = s.sp := rfl
  rcases Nat.lt_trichotomy s.sp.toNat 16 with hfree | hfull | hillegal
  · rw [exec_call_of_free hfree, exec_call_of_free (s := s.mapFree keys rnd st dt) hfree]; rfl
  · rw [exec_call_of_full hfull, exec_call_of_full (hsp ▸ hfull)]; rfl
  · rw [exec_call_of_illegal hillegal, exec_call_of_illegal (hsp ▸ hillegal)]; rfl

theorem exec_ret_mapFree :
    exec .ret (s.mapFree keys rnd st dt) = Result.andThen (exec .ret s) (fun t => t.mapFree keys rnd st dt) := by
  have hsp : (s.mapFree keys rnd st dt).sp = s.sp := rfl
  rcases Nat.eq_zero_or_pos s.sp.toNat with hempty | hpos
  · rw [exec_ret_of_empty hempty, exec_ret_of_empty (hsp ▸ hempty)]; rfl
  · by_cases hle : s.sp.toNat ≤ 16
    · rw [exec_ret_of_live hpos hle, exec_ret_of_live (s := s.mapFree keys rnd st dt) hpos hle]; rfl
    · have hillegal : 16 < s.sp.toNat := by omega
      rw [exec_ret_of_illegal hillegal, exec_ret_of_illegal (hsp ▸ hillegal)]; rfl

/-- What an instruction does not read it does not depend on: with its inputs and timers changed, it answers what it did,
changed in the same way. -/
theorem exec_mapFree (i : Instr) (hkeys : (∃ x, i = .skp x ∨ i = .sknp x ∨ i = .ldVxK x) → keys = id)
    (hrnd : (∃ x kk, i = .rnd x kk) → rnd = id) (hst : (∃ x, i = .ldStVx x) → st = id)
    (hdt : (∃ x, i = .ldVxDt x ∨ i = .ldDtVx x) → dt = id) :
    exec i (s.mapFree keys rnd st dt) = Result.andThen (exec i s) (fun t => t.mapFree keys rnd st dt) := by
  cases i with
  | ret => exact exec_ret_mapFree s keys rnd st dt
  | call nnn => exact exec_call_mapFree s keys rnd st dt nnn
  | drw => simp only [exec, execDrw, Result.andThen_ite]; rfl
  | ldB => simp only [exec, execLdB, Result.andThen_ite]; rfl
  | stRegs => simp only [exec, execStRegs, Result.andThen_ite]; rfl
  | ldRegs => simp only [exec, execLdRegs, Result.andThen_ite]; rfl
  | skp x => rw [hkeys ⟨x, .inl rfl⟩]; rfl
  | sknp x => rw [hkeys ⟨x, .inr (.inl rfl)⟩]; rfl
  | ldVxK x =>
    rw [hkeys ⟨x, .inr (.inr rfl)⟩]
    have hsame : (s.mapFree id rnd st dt).keys = s.keys := rfl
    cases hkey : leastKeyDown s.keys with
    | some k => rw [exec_ldVxK_of_some hkey, exec_ldVxK_of_some (hsame ▸ hkey)]; rfl
    | none => rw [exec_ldVxK_of_none hkey, exec_ldVxK_of_none (hsame ▸ hkey)]; rfl
  | rnd x kk => rw [hrnd ⟨x, kk, rfl⟩]; rfl
  | ldStVx x => rw [hst ⟨x, rfl⟩]; rfl
  | ldVxDt x => rw [hdt ⟨x, .inl rfl⟩]; rfl
  | ldDtVx x => rw [hdt ⟨x, .inr rfl⟩]; rfl
  | _ => rfl

end

/-- Settles O58: the two changes are changes of one input alone. -/
theorem inputsAreReadOnlyWhereNamed : Obligations.InputsAreReadOnlyWhereNamed := by
  intro i s b keys
  constructor
  · intro hno
    exact exec_mapFree s id (fun _ => b) id id i (fun _ => rfl) (fun ⟨x, kk, h⟩ => absurd h (hno x kk)) (fun _ => rfl)
      (fun _ => rfl)
  · intro hno
    refine exec_mapFree s (fun _ => keys) id id id i (fun ⟨x, h⟩ => ?_) (fun _ => rfl) (fun _ => rfl) (fun _ => rfl)
    obtain ⟨hskp, hsknp, hldVxK⟩ := hno x
    rcases h with h | h | h <;> contradiction

/-- Settles O59: the two changes are changes of one timer alone, and the timer writes overwrite it. -/
theorem timersAreReadOnlyWhereNamed : Obligations.TimersAreReadOnlyWhereNamed := by
  intro i s b
  refine ⟨fun hno => ?_, fun hno => ?_, fun _ => rfl, fun _ => rfl⟩
  · exact exec_mapFree s id id (fun _ => b) id i (fun _ => rfl) (fun _ => rfl) (fun ⟨x, h⟩ => absurd h (hno x))
      (fun _ => rfl)
  · refine exec_mapFree s id id id (fun _ => b) i (fun _ => rfl) (fun _ => rfl) (fun _ => rfl) (fun ⟨x, h⟩ => ?_)
    obtain ⟨hread, hwrite⟩ := hno x
    rcases h with h | h <;> contradiction

end Sys2Proof.Machine

/-! The step and its runs (spec/60_exceptions.md R200 to R219): what a step answers, the outcome it hands out, the faulted and
the parked machine, and zero words up to the end of memory. -/

namespace Sys2Proof.Machine

/-! ### One step -/

/-- The host's step goes through when the operation `Step` after the ticks does. -/
theorem step_of_stepWith {s t : State} (h : (s.tickTimes s.ticks).stepWith s.keys s.rnd = .next t) :
    step s = .next t.drawInputs := by
  simp [step, State.hostStep, h]

/-- What the host's step adds to the writes of the operation `Step`: the timers and the inputs. -/
theorem keeps_around_stepWith {regs : Reg → Prop} {ps : List Part} {s t : State}
    (h : KeepsAllBut regs ps (s.tickTimes s.ticks) t) :
    KeepsAllBut regs ([.delay, .sound] ++ ps ++ [.inputs]) s t.drawInputs :=
  ((keeps_tickTimes s _).mono_noReg.append h).append (keeps_drawInputs t).mono_noReg

/-- A step in `READY` that fetches `op` executes it with the inputs in place and `PC` advanced (R200, R202). -/
theorem State.stepWith_of_fetch {s : State} {op : Word} (hrun : s.run = .ready) (hfetch : s.fetch = some op)
    (keys : Config.Keys) (b : Byte) : s.stepWith keys b = (s.withInputs keys b).advance.execWord op := by
  have hfetch' : (s.withInputs keys b).fetch = some op := (fetch_congr rfl rfl).trans hfetch
  rw [stepWith_ready hrun, runReady_of_fetch hfetch']

/-- A step in `READY` with `PC + 1` outside memory raises (R203). -/
theorem State.stepWith_of_not_fetchable {s : State} (hrun : s.run = .ready) (h : s.pc.toNat + 1 > 0xFFF)
    (keys : Config.Keys) (b : Byte) :
    s.stepWith keys b = .next ((s.withInputs keys b).raiseFatal .outOfBoundsFetch) :=
  (stepWith_ready hrun keys b).trans (runReady_of_not_fetchable h)

/-- Everything a step in `READY` can do: raise, only advance, or execute an instruction from the advanced state. -/
theorem State.stepWith_ready_cases {s : State} (hrun : s.run = .ready) (keys : Config.Keys) (b : Byte) :
    s.stepWith keys b = .next ((s.withInputs keys b).raiseFatal .outOfBoundsFetch) ∨
    (s.pc.toNat + 1 ≤ 0xFFF ∧ (s.stepWith keys b = .next (s.withInputs keys b).advance ∨
      ∃ i, s.stepWith keys b = exec i (s.withInputs keys b).advance)) := by
  cases hfetch : s.fetch with
  | none => exact .inl (stepWith_of_not_fetchable hrun (fetch_eq_none.1 hfetch) keys b)
  | some op =>
    have hpc : s.pc.toNat + 1 ≤ 0xFFF := by
      by_contra hgt
      rw [fetch_eq_none.2 (by omega)] at hfetch; cases hfetch
    refine .inr ⟨hpc, ?_⟩
    cases hdec : decodeWord op with
    | error e => exact .inl (stepWith_of_decode_error hrun hfetch hdec keys b)
    | ok i => exact .inr ⟨i, (stepWith_of_fetch hrun hfetch keys b).trans (execWord_ok hdec)⟩

/-- Settles O41: the step is the operation `Step` between the ticks and the draw, and `Step` fetches the two bytes at `PC`. -/
theorem stepRunsTheDecodedInstruction : Obligations.StepRunsTheDecodedInstruction := by
  intro s i hrun hpc hdec
  have hfetch : (s.tickTimes s.ticks).fetch = _ := (State.fetch_congr rfl rfl).trans (s.fetch_of_le hpc)
  have hstep := State.stepWith_of_fetch (s := s.tickTimes s.ticks) hrun hfetch s.keys s.rnd
  refine ⟨?_, rfl, rfl⟩
  unfold step State.hostStep
  rw [hstep, State.execWord_ok hdec]

/-- Settles O42: the ticks at once are single ticks. -/
theorem stepIsTicksThenStepOperation : Obligations.StepIsTicksThenStepOperation := by
  intro s
  rw [← s.tickTimes_eq_iterate]; rfl

/-- A raise in a step changes the run state, the outcome and the inputs. -/
theorem keeps_withInputs_raiseFatal (s : State) (keys : Config.Keys) (b : Byte) (k : FatalKind) :
    KeepsAllBut noReg [.run, .outcome, .inputs] s ((s.withInputs keys b).raiseFatal k) :=
  ((keeps_withInputs s keys b).append (keeps_raiseFatal _ k)).mono_parts (by decide)

/-- Settles O44: the word is put together from the two bytes, and without the second the step raises. -/
theorem fetchReadsTwoBytesOrIsFatal : Obligations.FetchReadsTwoBytesOrIsFatal := by
  intro s keys b
  refine ⟨fun hpc => ⟨_, s.fetch_of_le hpc, ?_⟩, fun hrun hpc => ?_⟩
  · rw [wordOfBytes_toNat, Nat.mul_comm]
  · exact ⟨_, State.stepWith_of_not_fetchable hrun hpc keys b, rfl, rfl, keeps_withInputs_raiseFatal s keys b _⟩

/-! ### Outcome and run state (R201) -/

/-- With both as the step's start set them, they agree. -/
theorem State.outcomeAgrees_of_done {s : State} (ho : s.outcome = .done) (hr : s.run = .ready) : s.outcomeAgrees := by
  simp [outcomeAgrees, ho, hr]

/-- A raised fatal error leaves the two in agreement. -/
theorem State.outcomeAgrees_raiseFatal (s : State) (k : FatalKind) : (s.raiseFatal k).outcomeAgrees := rfl

/-- An execute phase from `READY` and `Done` leaves the two in agreement, whichever way it ends. -/
theorem outcomeAgrees_of_exec {i : Instr} {s t : State} (hr : s.run = .ready) (ho : s.outcome = .done)
    (h : exec i s = .next t) : t.outcomeAgrees := by
  cases execEnd_of_exec h with
  | quiet hrun hout => exact State.outcomeAgrees_of_done (hout.trans ho) (hrun.trans hr)
  | reports k hrun hout => simp [State.outcomeAgrees, hout, hrun, hr]
  | waits x hrun hout => simp [State.outcomeAgrees, hout, hrun]
  | raises k ht => subst ht; exact s.outcomeAgrees_raiseFatal k

/-- A waiting step leaves the two in agreement: the wait ends with `Done`, or goes on with `AwaitingInput`. -/
theorem State.outcomeAgrees_waitForKey {s : State} {x : Reg} (hr : s.run = .awaitingKey x) (ho : s.outcome = .done) :
    (s.waitForKey x).outcomeAgrees := by
  cases hkey : leastKeyDown s.keys with
  | some k => rw [waitForKey_of_some hkey]; exact outcomeAgrees_of_done ho rfl
  | none => rw [waitForKey_of_none hkey]; exact ⟨x, hr⟩

/-- Settles O47: by the run state the step finds. -/
theorem outcomeAgreesWithRunState : Obligations.OutcomeAgreesWithRunState := by
  intro s t keys b h
  cases hrun : s.run with
  | faulted k => rw [State.stepWith_faulted hrun] at h; cases h; exact hrun
  | awaitingKey x => rw [State.stepWith_awaiting hrun] at h; cases h; exact State.outcomeAgrees_waitForKey hrun rfl
  | ready =>
    rcases State.stepWith_ready_cases hrun keys b with hstep | ⟨-, hstep | ⟨i, hstep⟩⟩ <;> rw [hstep] at h
    · cases h; exact State.outcomeAgrees_raiseFatal _ _
    · cases h; exact State.outcomeAgrees_of_done rfl hrun
    · exact outcomeAgrees_of_exec (s := (s.withInputs keys b).advance) hrun rfl h

/-! ### Runs -/

/-- Of any core: a run may be made longer at its end. -/
theorem run_succ_of_run (M : Host.Core) (n : Nat) {s t u : M.State} (h : M.run n s = .next t) (h' : M.step t = .next u) :
    M.run (n + 1) s = .next u := by
  induction n generalizing s with
  | zero => cases h; exact run_succ_of_next M 0 h'
  | succ n ih =>
    cases hstep : M.step s with
    | next v =>
      rw [run_succ_of_next M n hstep] at h
      rw [run_succ_of_next M (n + 1) hstep]
      exact ih h
    | fault r => rw [Host.Core.run.eq_def] at h; simp [hstep] at h
    | refused r => rw [Host.Core.run.eq_def] at h; simp [hstep] at h

/-- The same, of this machine's step. -/
theorem core_run_succ_of_run {s t u : State} (n : Nat) (h : Host.Core.run Sys2Proof.core n s = .next t)
    (h' : step t = .next u) : Host.Core.run Sys2Proof.core (n + 1) s = .next u :=
  run_succ_of_run Sys2Proof.core n h h'

/-! ### The faulted machine (R206, R213) -/

/-- Settles O45: the step hands the fatal error out again and does nothing else. -/
theorem faultedStepIsInert : Obligations.FaultedStepIsInert := fun s _ keys b hrun =>
  ⟨_, State.stepWith_faulted hrun keys b, rfl,
    ((keeps_withInputs s keys b).append (keeps_setOutcome _ _)).mono_parts (by decide)⟩

/-- The host's step in `FAULTED(K)`: only its ticks do something. -/
theorem step_of_faulted {s : State} {k : FatalKind} (hrun : s.run = .faulted k) :
    ∃ t, step s = .next t ∧ t.run = .faulted k ∧ KeepsAllBut noReg [.delay, .sound, .outcome, .inputs] s t := by
  obtain ⟨t, hstep, -, hkeep⟩ := faultedStepIsInert (s.tickTimes s.ticks) k s.keys s.rnd hrun
  have hrun' : t.run = s.run := hkeep.2 .run (by decide)
  exact ⟨_, step_of_stepWith hstep, hrun'.trans hrun, (keeps_around_stepWith hkeep).mono_parts (by decide)⟩

/-- Settles O46: by induction over the steps. -/
theorem faultIsNeverLeftBySteps : Obligations.FaultIsNeverLeftBySteps := by
  intro n s k hrun
  induction n with
  | zero => exact ⟨s, core_run_zero s, hrun, .refl _ _ s⟩
  | succ n ih =>
    obtain ⟨t, hrunₙ, hrun', hkeep⟩ := ih
    obtain ⟨u, hstep, hrun'', hkeep'⟩ := step_of_faulted hrun'
    exact ⟨u, core_run_succ_of_run n hrunₙ hstep, hrun'', hkeep.trans hkeep'⟩

/-! ### The parked machine (R219) -/

/-- The operation `Step` of a parked machine: the jump puts `PC` back where it was. -/
theorem State.stepWith_of_parked {s : State} {a : Addr} (h : s.parked a) (keys : Config.Keys) (b : Byte) :
    s.stepWith keys b = .next ((s.withInputs keys b).advance.setPc (addrOperand a)) := by
  obtain ⟨hrun, -, -, hfetch⟩ := h
  rw [stepWith_of_fetch hrun hfetch, execWord_ok (decodeWord_group1 a), exec_jp]

/-- The address a parked machine stands at is its `PC`. -/
theorem State.addrOperand_of_parked {s : State} {a : Addr} (h : s.parked a) : addrOperand a = s.pc := by
  obtain ⟨-, hpc, -, -⟩ := h
  exact BitVec.eq_of_toNat_eq ((addrOperand_toNat a).trans hpc.symm)

/-- Being parked depends on the run state, `PC` and memory alone. -/
theorem State.parked_congr {s t : State} {a : Addr} (h : s.parked a) (hrun : t.run = s.run) (hpc : t.pc = s.pc)
    (hmem : t.mem = s.mem) : t.parked a := by
  obtain ⟨hready, hpark, hle, hfetch⟩ := h
  exact ⟨hrun.trans hready, hpc ▸ hpark, hle, (fetch_congr hpc hmem).trans hfetch⟩

/-- Settles O49: the jump's target is the `PC` it was fetched at. -/
theorem parkedStaysParked : Obligations.ParkedStaysParked := by
  intro s a h
  have hpc := State.addrOperand_of_parked h
  have hticked : (s.tickTimes s.ticks).parked a := State.parked_congr h rfl rfl rfl
  refine ⟨_, step_of_stepWith (State.stepWith_of_parked hticked s.keys s.rnd), State.parked_congr h rfl hpc rfl, rfl, ?_⟩
  have hkeep := (keeps_withInputs_advance (s.tickTimes s.ticks) s.keys s.rnd).append (keeps_setPc _ (addrOperand a))
  exact (keeps_around_stepWith hkeep).of_kept (p := .pc) hpc (by decide)

/-! ### Zero words up to the end of memory (R66, R203) -/

/-- Every byte from `PC` to the end of memory is zero. -/
def State.zerosAhead (s : State) : Prop := ∀ a, s.pc.toNat ≤ a → a ≤ 0xFFF → s.mem.read a = 0

/-- What `n` no-op steps leave: `PC` is further on and the timers may have counted. -/
structure AfterNoOps (n : Nat) (s t : State) : Prop where
  run     : t.run = .ready
  outcome : 0 < n → t.outcome = .done
  pc      : t.pc.toNat = s.pc.toNat + 2 * n
  delay   : t.dt.toNat ≤ s.dt.toNat
  sound   : t.st.toNat ≤ s.st.toNat
  keeps   : KeepsAllBut noReg [.pc, .delay, .sound, .outcome, .inputs] s t

/-- With zeros ahead the word fetched is zero. -/
theorem State.fetch_of_zerosAhead {s : State} (h : s.zerosAhead) (hpc : s.pc.toNat + 1 ≤ 0xFFF) : s.fetch = some 0 := by
  rw [s.fetch_of_le hpc, h _ (le_refl _) (by omega), h _ (by omega) hpc]; rfl

/-- Counting down never raises a timer. -/
theorem countDownTimes_le (n : Nat) (t : Byte) : (countDownTimes n t).toNat ≤ t.toNat := by
  rw [countDownTimes_toNat]; omega

/-- The zero word is a no-op (R66). -/
theorem step_of_zerosAhead {s : State} (hrun : s.run = .ready) (hz : s.zerosAhead) (hpc : s.pc.toNat + 2 ≤ 0x1000) :
    ∃ t, step s = .next t ∧ AfterNoOps 1 s t := by
  have hfetch := State.fetch_of_zerosAhead hz (by omega)
  have hdec : decodeWord 0 = .error (.unrecognized 0) := by decide
  have hstep := State.stepWith_of_decode_error (s := s.tickTimes s.ticks) hrun hfetch hdec s.keys s.rnd
  have htwo : (2 : Word).toNat = 2 := rfl
  refine ⟨_, step_of_stepWith hstep, hrun, fun _ => rfl, ?_, countDownTimes_le _ _, countDownTimes_le _ _,
    (keeps_around_stepWith (keeps_withInputs_advance _ _ _)).mono_parts (by decide)⟩
  change (s.pc + 2).toNat = _
  rw [BitVec.toNat_add, htwo]; omega

/-- Zeros ahead stay ahead of a `PC` that moves on. -/
theorem State.zerosAhead_of_afterNoOps {n : Nat} {s t : State} (h : AfterNoOps n s t) (hz : s.zerosAhead) :
    t.zerosAhead := by
  intro a hle hmax
  have hread : t.mem.read a = s.mem.read a := h.keeps.2 .memory (by decide) a
  rw [hread]
  exact hz a (by rw [h.pc] at hle; omega) hmax

theorem AfterNoOps.zero {s : State} (hrun : s.run = .ready) : AfterNoOps 0 s s :=
  ⟨hrun, fun h => absurd h (lt_irrefl 0), rfl, le_refl _, le_refl _, .refl _ _ s⟩

theorem AfterNoOps.succ {n : Nat} {s t u : State} (h : AfterNoOps n s t) (h' : AfterNoOps 1 t u) :
    AfterNoOps (n + 1) s u :=
  ⟨h'.run, fun _ => h'.outcome Nat.one_pos, by rw [h'.pc, h.pc]; omega, h'.delay.trans h.delay, h'.sound.trans h.sound,
    h.keeps.trans h'.keeps⟩

/-- As many no-op steps as there are zero words to fetch. -/
theorem run_of_zerosAhead {s : State} (hrun : s.run = .ready) (hz : s.zerosAhead) (n : Nat)
    (hpc : s.pc.toNat + 2 * n ≤ 0x1000) :
    ∃ t, Host.Core.run Sys2Proof.core n s = .next t ∧ AfterNoOps n s t := by
  induction n with
  | zero => exact ⟨s, core_run_zero s, .zero hrun⟩
  | succ n ih =>
    obtain ⟨t, hrunₙ, hafter⟩ := ih (by omega)
    obtain ⟨u, hstep, hone⟩ :=
      step_of_zerosAhead hafter.run (State.zerosAhead_of_afterNoOps hafter hz) (by rw [hafter.pc]; omega)
    exact ⟨u, core_run_succ_of_run n hrunₙ hstep, hafter.succ hone⟩

/-- A step with no word left to fetch is fatal (R203). -/
theorem step_of_not_fetchable {s : State} (hrun : s.run = .ready) (hpc : 0xFFF ≤ s.pc.toNat) :
    ∃ t, step s = .next t ∧ t.run = .faulted .outOfBoundsFetch ∧ t.outcome = .fatal .outOfBoundsFetch ∧
      KeepsAllBut noReg [.delay, .sound, .run, .outcome, .inputs] s t := by
  obtain ⟨-, hfatal⟩ := fetchReadsTwoBytesOrIsFatal (s.tickTimes s.ticks) s.keys s.rnd
  obtain ⟨t, hstep, hrun', hout, hkeep⟩ := hfatal hrun (Nat.lt_succ_of_le hpc)
  exact ⟨_, step_of_stepWith hstep, hrun', hout, (keeps_around_stepWith hkeep).mono_parts (by decide)⟩

/-- After the no-op steps that reach the end of memory comes the fatal one, with `PC` where it stands. -/
theorem run_off_the_end {s : State} (hrun : s.run = .ready) (hz : s.zerosAhead) (n : Nat)
    (hpc : s.pc.toNat + 2 * n ≤ 0x1000) (hend : 0xFFF ≤ s.pc.toNat + 2 * n) :
    ∃ t : State, Host.Core.run Sys2Proof.core (n + 1) s = .next t ∧
      t.run = .faulted .outOfBoundsFetch ∧ t.outcome = .fatal .outOfBoundsFetch ∧ t.pc.toNat = s.pc.toNat + 2 * n ∧
      KeepsAllBut noReg [.pc, .delay, .sound, .run, .outcome, .inputs] s t := by
  obtain ⟨t, hrunₙ, hafter⟩ := run_of_zerosAhead hrun hz n hpc
  obtain ⟨u, hstep, hrun', hout, hkeep⟩ := step_of_not_fetchable hafter.run (hafter.pc ▸ hend)
  have hpc' : u.pc = t.pc := hkeep.2 .pc (by decide)
  exact ⟨u, core_run_succ_of_run n hrunₙ hstep, hrun', hout, by rw [hpc', hafter.pc],
    (hafter.keeps.mono_parts (by decide)).trans (hkeep.mono_parts (by decide))⟩

theorem State.reset_zerosAhead : State.reset.zerosAhead := fun a _ _ => Memory.read_nil a

/-- Timers that stand at zero are not changed by no-op steps. -/
theorem AfterNoOps.keeps_zero_timers {n : Nat} {s t : State} (h : AfterNoOps n s t) (hdt : s.dt = 0) (hst : s.st = 0) :
    KeepsAllBut noReg [.pc, .outcome, .inputs] s t := by
  have hdelay : t.dt = s.dt := by
    have hle := h.delay
    rw [hdt] at hle ⊢
    exact BitVec.eq_of_toNat_eq (Nat.le_zero.1 hle)
  have hsound : t.st = s.st := by
    have hle := h.sound
    rw [hst] at hle ⊢
    exact BitVec.eq_of_toNat_eq (Nat.le_zero.1 hle)
  have hkeep : KeepsAllBut noReg [.pc, .sound, .outcome, .inputs] s t :=
    h.keeps.of_kept (p := .delay) hdelay (by decide)
  exact hkeep.of_kept (p := .sound) hsound (by decide)

/-- Settles O52: no-op steps by induction, then one fatal fetch; after reset memory is all zero and the timers stand at zero. -/
theorem resetRunsOffTheEndOfMemory : Obligations.ResetRunsOffTheEndOfMemory := by
  have hpc : State.reset.pc.toNat = 0x200 := rfl
  refine ⟨fun n s hrun hz hle => ⟨?_, run_off_the_end hrun hz n hle⟩, Memory.read_nil, fun n hn => ?_, ?_⟩
  · obtain ⟨t, hrunₙ, hafter⟩ := run_of_zerosAhead hrun hz n hle
    exact ⟨t, hrunₙ, hafter.run, hafter.outcome, hafter.pc, hafter.keeps⟩
  · obtain ⟨t, hrunₙ, hafter⟩ := run_of_zerosAhead (s := State.reset) rfl State.reset_zerosAhead n (by omega)
    exact ⟨t, hrunₙ, hafter.run, hafter.outcome, hafter.pc, hafter.keeps_zero_timers rfl rfl⟩
  · obtain ⟨t, hrunₙ, hrun', hout, hpc', -⟩ :=
      run_off_the_end (s := State.reset) rfl State.reset_zerosAhead 1792 (by omega) (by omega)
    exact ⟨t, hrunₙ, hrun', hout, hpc'⟩

end Sys2Proof.Machine

/-! Boot, reset and the invariant of every reachable state (spec/70_reset_and_hazards.md, spec/10_state.md R14, R17). -/

namespace Sys2Proof.Machine

/-! ### Memory after boot (R230) -/

theorem wf_bootMemory (font : Config.Font) (image : List Byte) : (bootMemory font image).wf = true :=
  Memory.wf_load _ _ (Memory.wf_load _ _ rfl _) _

/-- The image, cut to what fits, over the font, over zeros. -/
theorem read_bootMemory (font : Config.Font) (image : List Byte) (a : Nat) :
    (bootMemory font image).read a =
      if 0x200 ≤ a ∧ a < 0x200 + min 3584 image.length then (image.take 3584)[a - 0x200]?.getD 0
      else if a < 80 then font.toList[a]?.getD 0 else 0 := by
  have hlen : (image.take 3584).length = min 3584 image.length := List.length_take
  have hfit : Config.progBase + (image.take Config.progMax).length ≤ Config.memSize := by
    simp only [Config.progBase, Config.progMax, Config.memSize, hlen]; omega
  have hfont : (Memory.load [] 0 font.toList).read a = if a < 80 then font.toList[a]?.getD 0 else 0 := by
    rw [Memory.read_load font.toList [] rfl 0 (by simp [Config.memSize])]
    simp
  unfold bootMemory
  rw [Memory.read_load _ _ (Memory.wf_load _ _ rfl _) _ hfit, hfont]
  simp only [Config.progBase, Config.progMax, hlen]

theorem read_bootMemory_font (font : Config.Font) (image : List Byte) (k : Fin 80) :
    (bootMemory font image).read k.val = font[k] := by
  have hk := k.isLt
  rw [read_bootMemory, if_neg (by omega), if_pos hk]
  simp

theorem read_bootMemory_image (font : Config.Font) (image : List Byte) {k : Nat} (h : k < image.length) (hk : k < 3584) :
    (bootMemory font image).read (0x200 + k) = image[k] := by
  rw [read_bootMemory, if_pos ⟨by omega, by omega⟩, Nat.add_sub_cancel_left, List.getElem?_take_of_lt hk]
  simp [h]

/-- Outside the font and the image, as far as it fits, memory is zero (D2). -/
theorem read_bootMemory_elsewhere (font : Config.Font) (image : List Byte) {a : Nat} (hfont : 80 ≤ a)
    (himage : a < 0x200 ∨ 0x200 + min 3584 image.length ≤ a) : (bootMemory font image).read a = 0 := by
  rw [read_bootMemory, if_neg (by omega), if_neg (by omega)]

/-! ### The pieces of the state after boot and reset (R25, R26) -/

theorem State.reg_initialise (s : State) (m : Memory) (r : Reg) : (s.initialise m).reg r = 0 :=
  (reg_congr (s := State.reset) rfl r).trans (reset_reg r)

/-- The framebuffer that both leave is the cleared one. -/
theorem State.fbGet_initialise (s : State) (m : Memory) (cx cy : Nat) : fbGet (s.initialise m).fb cx cy = false :=
  fbGet_clear cx cy

/-- Settles O50: the pieces but memory are those of `State.initialise`, and memory is loaded in two ranges. -/
theorem bootSetsEveryPiece : Obligations.BootSetsEveryPiece := by
  intro s font image
  refine ⟨_, rfl, s.reg_initialise _, rfl, rfl, rfl, rfl, rfl, rfl, s.fbGet_initialise _, read_bootMemory_font font image,
    fun a hlo hhi => ?_, fun k h hk => read_bootMemory_image font image h hk, fun k hlen hk => ?_⟩
  · exact read_bootMemory_elsewhere font image hlo (.inl hhi)
  · exact read_bootMemory_elsewhere font image (by omega) (.inr (by omega))

/-- Settles O51: the state after `Reset` has every piece of `State.reset`. -/
theorem resetSetsEveryPiece : Obligations.ResetSetsEveryPiece := by
  intro s
  refine ⟨_, rfl, ?_⟩
  rintro u (rfl | rfl)
  · exact ⟨s.reg_initialise _, rfl, rfl, rfl, rfl, rfl, rfl, s.fbGet_initialise _, Memory.read_nil⟩
  · exact ⟨State.reset_reg, rfl, rfl, rfl, rfl, rfl, rfl, fbGet_clear, Memory.read_nil⟩

/-! ### The invariant and the updates -/

theorem State.Inv.wf_mem {s : State} (h : s.Inv) : s.mem.wf = true := h.1

theorem State.Inv.sp_le {s : State} (h : s.Inv) : s.sp.toNat ≤ 16 := h.2.1

theorem State.Inv.pc_le {s : State} (h : s.Inv) : s.pc.toNat ≤ 0x10FE := h.2.2.1

/-- The invariant where memory, the stack and its pointer are as before, at any legal `PC`. -/
theorem State.Inv.of_pc {s t : State} (h : s.Inv) (hmem : t.mem = s.mem) (hsp : t.sp = s.sp) (hstack : t.stack = s.stack)
    (hpc : t.pc.toNat ≤ 0x10FE) : t.Inv := by
  obtain ⟨hwf, hle, -, hlive⟩ := h
  exact ⟨hmem ▸ hwf, hsp ▸ hle, hpc, by rwa [live_congr hstack hsp]⟩

/-- The invariant where nothing it speaks of changed. -/
theorem State.Inv.of_same {s t : State} (h : s.Inv) (hmem : t.mem = s.mem) (hsp : t.sp = s.sp)
    (hstack : t.stack = s.stack) (hpc : t.pc = s.pc) : t.Inv :=
  h.of_pc hmem hsp hstack (hpc ▸ h.pc_le)

theorem State.Inv.setMem {s : State} (h : s.Inv) {m : Memory} (hm : m.wf = true) : (s.setMem m).Inv := by
  obtain ⟨-, hsp, hpc, hlive⟩ := h
  exact ⟨hm, hsp, hpc, hlive⟩

/-- Memory in canonical form and an empty stack make the invariant, at any legal `PC`. -/
theorem State.Inv.of_sp_zero {s : State} (hmem : s.mem.wf = true) (hsp : s.sp = 0) (hpc : s.pc.toNat ≤ 0x10FE) : s.Inv := by
  refine ⟨hmem, by rw [hsp]; decide, hpc, ?_⟩
  rw [live_of_sp_zero hsp]
  simp

/-- Settles O53: in reset memory lists nothing and no return address is live. -/
theorem invariantAtReset : Obligations.InvariantAtReset := .of_sp_zero rfl rfl (by decide)

theorem State.Inv.initialise (s : State) {m : Memory} (hm : m.wf = true) : (s.initialise m).Inv :=
  .of_sp_zero hm rfl (show (0x200 : Word).toNat ≤ 0x10FE by decide)

/-- Settles O54: loading keeps the canonical form. -/
theorem invariantAfterBoot : Obligations.InvariantAfterBoot := fun s font image =>
  .initialise s (wf_bootMemory font image)

/-- Advancing or skipping by 2 keeps a `PC` of at most 0x1000 legal. -/
theorem word_add_two_le {p : Word} {n : Nat} (h : p.toNat ≤ n) (hn : n ≤ 0x1000) : (p + 2).toNat ≤ n + 2 := by
  have htwo : (2 : Word).toNat = 2 := rfl
  rw [BitVec.toNat_add, htwo]; omega

theorem State.Inv.skipIf {s : State} (h : s.Inv) (hpc : s.pc.toNat ≤ 0x1000) (c : Bool) : (s.skipIf c).Inv := by
  refine h.of_pc rfl rfl rfl ?_
  have hskip := word_add_two_le hpc (le_refl _)
  rw [State.skipIf_pc]
  split <;> omega

/-- A call pushes a return address of at most 0x1000 (R104). -/
theorem State.Inv.call {s : State} (h : s.Inv) (hpc : s.pc.toNat ≤ 0x1000) (hfree : s.sp.toNat < 16) (nnn : Addr) :
    ((s.setStack (s.stack.set s.sp.toNat s.pc) (s.sp + 1)).setPc (addrOperand nnn)).Inv := by
  obtain ⟨hwf, -, -, hlive⟩ := h
  have hsp := byte_toNat_add_one hfree
  have hnew : (addrOperand nnn).toNat ≤ 0x10FE := by rw [addrOperand_toNat]; omega
  refine ⟨hwf, hsp.trans_le hfree, hnew, ?_⟩
  change ∀ a ∈ (s.setStack (s.stack.set s.sp.toNat s.pc) (s.sp + 1)).live, a.toNat ≤ 0x1000
  rw [State.live_setStack_push hfree]
  simpa [or_imp, forall_and] using ⟨hlive, hpc⟩

/-- A return loads a live return address, and the others stay live (R102). -/
theorem State.Inv.ret {s : State} (h : s.Inv) (hpos : 0 < s.sp.toNat) (hle : s.sp.toNat ≤ 16) :
    ((s.setStack s.stack (s.sp - 1)).setPc (s.stack[s.sp.toNat - 1]'(by omega))).Inv := by
  obtain ⟨hwf, -, -, hlive⟩ := h
  have hpop := State.live_setStack_pop hpos hle
  rw [← hpop] at hlive
  have hsp := byte_toNat_sub_one (byte_ne_zero_of_pos hpos)
  have hpc := hlive _ (List.mem_append_right _ (List.mem_singleton_self _))
  exact ⟨hwf, show (s.sp - 1).toNat ≤ 16 by omega, hpc.trans (by decide),
    fun a ha => hlive a (List.mem_append_left _ ha)⟩

/-! ### The invariant through the execute phase, the step and every operation -/

/-- The execute phase keeps the invariant, from the advanced `PC` of any fetch. -/
theorem inv_of_exec {i : Instr} {s t : State} (h : s.Inv) (hpc : s.pc.toNat ≤ 0x1000) (hexec : exec i s = .next t) :
    t.Inv := by
  cases i with
  | jp nnn => cases hexec; exact h.of_pc rfl rfl rfl (by rw [State.setPc_pc, addrOperand_toNat]; omega)
  | jpV0 nnn =>
    cases hexec
    exact h.of_pc rfl rfl rfl (by rw [State.setPc_pc, addrOperand_add_byte_toNat]; omega)
  | seImm | sneImm | seReg | sneReg | skp | sknp => cases hexec; exact h.skipIf hpc _
  | call nnn =>
    rcases exec_call_next hexec with ⟨hfree, rfl⟩ | rfl
    · exact h.call hpc hfree nnn
    · exact h.of_same rfl rfl rfl rfl
  | ret =>
    rcases exec_ret_next hexec with ⟨⟨hpos, hle⟩, rfl⟩ | rfl
    · exact h.ret hpos hle
    · exact h.of_same rfl rfl rfl rfl
  | ldB =>
    rcases exec_ldB_next hexec with rfl | rfl
    · exact h.setMem (wf_storeDigits _ _ _ h.wf_mem)
    · exact h.of_same rfl rfl rfl rfl
  | stRegs =>
    rcases exec_stRegs_next hexec with rfl | rfl
    · exact h.setMem (wf_storeRange _ _ _ _ h.wf_mem)
    · exact h.of_same rfl rfl rfl rfl
  | drw => rcases exec_drw_next hexec with rfl | rfl <;> exact h.of_same rfl rfl rfl rfl
  | ldRegs => rcases exec_ldRegs_next hexec with rfl | rfl <;> exact h.of_same rfl rfl rfl rfl
  | ldVxK => rcases exec_ldVxK_next hexec with ⟨_, rfl⟩ | rfl <;> exact h.of_same rfl rfl rfl rfl
  | _ => cases hexec; exact h.of_same rfl rfl rfl rfl

/-- A bounds check answers a next state either way. -/
theorem exists_next_of_ite (c : Prop) [Decidable c] (t u : State) :
    ∃ v, (if c then .next t else .next u : Result) = .next v := by
  split
  · exact ⟨t, rfl⟩
  · exact ⟨u, rfl⟩

/-- With a legal `SP` every execute phase answers a next state. -/
theorem exec_completes {s : State} (hsp : s.sp.toNat ≤ 16) (i : Instr) : ∃ t, exec i s = .next t := by
  cases i with
  | call nnn =>
    rcases Nat.lt_or_eq_of_le hsp with hfree | hfull
    · exact ⟨_, exec_call_of_free hfree nnn⟩
    · exact ⟨_, exec_call_of_full hfull nnn⟩
  | ret =>
    rcases Nat.eq_zero_or_pos s.sp.toNat with hempty | hpos
    · exact ⟨_, exec_ret_of_empty hempty⟩
    · exact ⟨_, exec_ret_of_live hpos hsp⟩
  | drw | ldB | stRegs | ldRegs => exact exists_next_of_ite _ _ _
  | _ => exact ⟨_, rfl⟩

theorem State.Inv.withInputs {s : State} (h : s.Inv) (keys : Config.Keys) (b : Byte) : (s.withInputs keys b).Inv :=
  h.of_same rfl rfl rfl rfl

/-- The advance of a fetch keeps the invariant. -/
theorem State.Inv.advance {s : State} (h : s.Inv) (hpc : s.pc.toNat ≤ 0xFFE) : s.advance.Inv :=
  h.of_pc rfl rfl rfl ((word_add_two_le hpc (by decide)).trans (by decide))

theorem State.Inv.waitForKey {s : State} (h : s.Inv) (x : Reg) : (s.waitForKey x).Inv := by
  cases hkey : leastKeyDown s.keys with
  | some k => rw [waitForKey_of_some hkey]; exact h.of_same rfl rfl rfl rfl
  | none => rw [waitForKey_of_none hkey]; exact h.of_same rfl rfl rfl rfl

/-- From the invariant the operation `Step`, in any run state and with any inputs, answers a next state of the invariant. -/
theorem State.Inv.stepWith {s : State} (h : s.Inv) (keys : Config.Keys) (b : Byte) :
    ∃ t, s.stepWith keys b = .next t ∧ t.Inv := by
  have hin := h.withInputs keys b
  cases hrun : s.run with
  | faulted k => exact ⟨_, stepWith_faulted hrun keys b, hin.of_same rfl rfl rfl rfl⟩
  | awaitingKey x => exact ⟨_, stepWith_awaiting hrun keys b, hin.waitForKey x⟩
  | ready =>
    rcases stepWith_ready_cases hrun keys b with hstep | ⟨hpc, hstep | ⟨i, hstep⟩⟩
    · exact ⟨_, hstep, hin.of_same rfl rfl rfl rfl⟩
    · exact ⟨_, hstep, hin.advance (Nat.le_of_succ_le_succ hpc)⟩
    · have hadv := hin.advance (Nat.le_of_succ_le_succ hpc)
      obtain ⟨t, hexec⟩ := exec_completes hadv.sp_le i
      have hpc' : (s.withInputs keys b).advance.pc.toNat ≤ 0x1000 :=
        word_add_two_le (Nat.le_of_succ_le_succ hpc) (by decide)
      exact ⟨t, hstep.trans hexec, inv_of_exec hadv hpc' hexec⟩

/-- Settles O55: the ticks and the draw touch nothing the invariant speaks of. -/
theorem stepKeepsTheInvariant : Obligations.StepKeepsTheInvariant := by
  intro s t h hstep
  have hticked : (s.tickTimes s.ticks).Inv := h.of_same rfl rfl rfl rfl
  obtain ⟨u, hu, hinv⟩ := hticked.stepWith s.keys s.rnd
  rw [step_of_stepWith hu] at hstep
  cases hstep
  exact hinv.of_same rfl rfl rfl rfl

/-- Settles O56: operation by operation. -/
theorem everyOperationCompletes : Obligations.EveryOperationCompletes := by
  intro s o h
  cases o with
  | boot font image => exact ⟨_, rfl, invariantAfterBoot s font image⟩
  | reset => exact ⟨_, rfl, .initialise s rfl⟩
  | step keys b => exact h.stepWith keys b
  | tick => exact ⟨_, rfl, h.of_same rfl rfl rfl rfl⟩
  | snapshot | dumpMemory => exact ⟨s, rfl, h⟩

/-- From the invariant every list of operations completes in it. -/
theorem State.Inv.performAll (ops : List Operation) {s : State} (h : s.Inv) : ∃ t, s.performAll ops = .next t ∧ t.Inv := by
  induction ops generalizing s with
  | nil => exact ⟨s, rfl, h⟩
  | cons o rest ih =>
    obtain ⟨t, hperform, hinv⟩ := everyOperationCompletes s o h
    rw [performAll_cons_of_next rest hperform]
    exact ih hinv

/-- Settles O60: a boot makes the invariant, which carries the rest of the run; every other start is refused. -/
theorem runsStartWithBootAndComplete : Obligations.RunsStartWithBootAndComplete := by
  refine ⟨fun font image ops => ?_, fun o ops hno => ?_, runOperations_boot_reset⟩
  · exact (invariantAfterBoot State.reset font image).performAll ops
  · cases o with
    | boot font image => exact absurd rfl (hno font image)
    | reset | step | tick | snapshot | dumpMemory => rfl

end Sys2Proof.Machine
